-- ==== Sys2Proof/Word.lean ====
section
/-! DEFINITION. The word types of the block: 32-bit command words and port registers (rules R12, R60),
8-bit bytes of the register store (rule R41), and one-bit numbers. -/

namespace Sys2Proof

/-- A command word, a port register or a slave-space word: 32 bits (rules R12, R46, R60). -/
abbrev Word := BitVec 32

/-- A byte of the chip's register store (rule R41). -/
abbrev Byte := BitVec 8

/-- A one-bit number, where the spec computes with the bit as a number (`ref_sel`, `MSTR`, `REF`). -/
abbrev Bit := BitVec 1

end Sys2Proof
end

