-- ==== Sys2Proof/Syntax.lean ====
section
/-! DEFINITION. The eleven commands of rule R62, one constructor per row of the opcode table. A command's
port is not part of its word (rule R69): it is the port the word was written to. -/

namespace Sys2Proof

/-- The commands of the block (rule R62), with the fields of their formats (rules R63 to R68). The two
Hz operands (`ARG_RATE`, `ARG_BCLK`) are registers, not fields (rule R60). -/
inductive Instr where
  /-- `NOP`, rule R83. -/
  | nop
  /-- `ACQ`, acquire the clock, rule R88. -/
  | acq
  /-- `REL`, release the clock, rule R96. -/
  | rel
  /-- `SWS`, switch the clock source to `TGT`, rule R98; `TGT` = 3 is a legal word (rule R64). -/
  | sws (tgt : BitVec 2)
  /-- `PDN`, power the path down, rule R152. -/
  | pdn
  /-- `PUP`, power the path up, rule R155. -/
  | pup
  /-- `SFMT`, set frame format and master mode, rule R126. -/
  | sfmt (ffmt : BitVec 3) (mstr : Bit)
  /-- `SCLK`, set the explicit bit clock, rule R127. -/
  | sclk
  /-- `FMT`, configure the format, rule R129. -/
  | fmt (width : BitVec 6) (chans : BitVec 4) (dsd : Bit)
  /-- `DIVL`, the divider lookup alone, rule R140. -/
  | divl (bcw : BitVec 6) (chans : BitVec 4) (refx ref : Bit)
  /-- `CFG`, configure crystal bias and PLL bypass, rule R85. -/
  | cfg (bias : BitVec 2) (bypass : Bit)
deriving DecidableEq, Repr, Inhabited

end Sys2Proof
end

