-- ==== Sys2Proof/WellFormed.lean ====
section
/-! DEFINITION. Which commands have a legal word. The field widths are types, so the one condition left is
the one rule R67 puts between two fields of `DIVL`. -/

namespace Sys2Proof

/-- A command is well formed when the word its fields give is legal: `DIVL` with `REFX` = 0 must have
`REF` = 0 (rules R67, R70). Every other combination of fields is legal. -/
def Instr.wf : Instr → Bool
  | .nop => true
  | .acq => true
  | .rel => true
  | .sws _ => true
  | .pdn => true
  | .pup => true
  | .sfmt _ _ => true
  | .sclk => true
  | .fmt _ _ _ => true
  | .divl _ _ refx ref => !(refx == 0#1 && ref == 1#1)
  | .cfg _ _ => true

end Sys2Proof
end

