-- ==== Sys2Proof/Decode.lean ====
section
/-! DEFINITION. The decoder of rule R71 and, after it, the encoder of the formats of rules R63 to R68. A
command is one 32-bit word and nothing else (rule R60); the block has no byte order for it (rule R46). -/

namespace Sys2Proof

/-- Why a word is no command (rule R70). -/
inductive DecodeError where
  /-- `OPC` is 0xB to 0xF. -/
  | illegalOpcode
  /-- A bit the format does not name is 1, or `DIVL` has `REF` = 1 with `REFX` = 0. -/
  | reservedBits
deriving DecidableEq, Repr

/-- `v[lo+n-1:lo]`, the field of `n` bits from bit `lo` up (rules R6, R69). -/
def field (w : Word) (lo n : Nat) : BitVec n := w.extractLsb' lo n

/-- The answer for a word whose reserved bits (rule R60) are given: the command when they are all 0. -/
def whenReservedZero {n : Nat} (reserved : BitVec n) (i : Instr) : Except DecodeError Instr :=
  if reserved = 0#n then .ok i else .error .reservedBits

/-- Decode (rule R71): the opcode test first, then the reserved bits of the opcode's format. Total on
every word; each word is one of the eleven commands or rejected by name (rule R70). -/
def decode (w : Word) : Except DecodeError Instr :=
  match (field w 28 4).toNat with
  | 0x0 => whenReservedZero (field w 0 28) .nop
  | 0x1 => whenReservedZero (field w 0 28) .acq
  | 0x2 => whenReservedZero (field w 0 28) .rel
  | 0x3 => whenReservedZero (field w 2 26) (.sws (field w 0 2))
  | 0x4 => whenReservedZero (field w 0 28) .pdn
  | 0x5 => whenReservedZero (field w 0 28) .pup
  | 0x6 => whenReservedZero (field w 4 24) (.sfmt (field w 1 3) (field w 0 1))
  | 0x7 => whenReservedZero (field w 0 28) .sclk
  | 0x8 => whenReservedZero (field w 12 16 ++ field w 0 1) (.fmt (field w 6 6) (field w 2 4) (field w 1 1))
  | 0x9 =>
    whenReservedZero (field w 12 16 ++ (~~~(field w 1 1) &&& field w 0 1))
      (.divl (field w 6 6) (field w 2 4) (field w 1 1) (field w 0 1))
  | 0xA => whenReservedZero (field w 3 25) (.cfg (field w 1 2) (field w 0 1))
  | _ => .error .illegalOpcode

/-- The word of a command (rules R63 to R68, R72): the opcode in bits 31:28, the fields, zeros elsewhere. -/
def encode : Instr → Word
  | .nop => 0x0#4 ++ 0#28
  | .acq => 0x1#4 ++ 0#28
  | .rel => 0x2#4 ++ 0#28
  | .sws tgt => 0x3#4 ++ 0#26 ++ tgt
  | .pdn => 0x4#4 ++ 0#28
  | .pup => 0x5#4 ++ 0#28
  | .sfmt ffmt mstr => 0x6#4 ++ 0#24 ++ ffmt ++ mstr
  | .sclk => 0x7#4 ++ 0#28
  | .fmt width chans dsd => 0x8#4 ++ 0#16 ++ width ++ chans ++ dsd ++ 0#1
  | .divl bcw chans refx ref => 0x9#4 ++ 0#16 ++ bcw ++ chans ++ refx ++ ref
  | .cfg bias bypass => 0xA#4 ++ 0#25 ++ bias ++ bypass

/-- The command the decoder reads from a row's word of `nbits` bits, numbered as the opcode table numbers
them (bit 0 least significant); the bits above `nbits` are 0. -/
def decodeTableWord (nbits w : Nat) : Option Instr :=
  match decode (BitVec.ofNat 32 (w % 2 ^ nbits)) with
  | .ok i => some i
  | .error _ => none

end Sys2Proof
end

