-- ==== Sys2Proof/Config.lean ====
section
/-! DEFINITION. What one implementation fixes and what the environment is free to do: the names the
parameters of rule R5 are stated over, the moves of the agents of rule R10, and the free values, each an
uninterpreted constant. The parameters themselves, bounded as rule R5 says, are in Machine/Params.lean. -/

namespace Sys2Proof

/-- The command ports (`NPORT` = 2, rule R11): port 0 primary, port 1 secondary. -/
inductive Port where
  | p0
  | p1
deriving DecidableEq, Repr, Inhabited

/-- The names of the twelve control fields (rule R23). -/
inductive CtlField where
  | XTAL_PDN | XTAL_RDY_IE | MCLK_SRC_SEL | MCLK_INT | PLL_PDN | MUTE
  | PDN_DONE_INH | PDN_OUT | PDN_PATH | ASP_3ST | SCRATCH_A | SCRATCH_B
deriving DecidableEq, Repr, Inhabited

/-- Where a control field lies in the register store (rule R45): address, mask, shift (0 to 7). -/
structure RsLoc where
  addr : BitVec 24
  mask : Byte
  shift : BitVec 3
deriving DecidableEq, Repr, Inhabited

/-- The four settle waits of rule R5 that have a lower bound only (`wait(T)`, rule R180). -/
inductive WaitName where
  | T_REFSEL | T_SRC_SETTLE | T_PDN_SETTLE | T_DAC_STARTUP
deriving DecidableEq, Repr, Inhabited

/-- Who may ask for the power sequencer (rule R151): a port, or the arbiter from step L2 of `REL`. -/
inductive Requester where
  | port (p : Port)
  | arb
deriving DecidableEq, Repr, Inhabited

/-- One access of a host agent to the slave space (rule R46): the byte offset from `BASE`, the size in
bytes, and the data of a write. -/
inductive HostAccess where
  | read (size offset : Nat)
  | write (size offset : Nat) (data : Word)
deriving DecidableEq, Repr, Inhabited

/-- One move of one agent (rule R10), and the reset input (rule R190). -/
inductive Move where
  /-- `HOST[0]` or `HOST[1]` makes a slave access. -/
  | host (a : HostAccess)
  /-- `FU[p]` takes its one step, if it has a command. -/
  | fu (p : Port)
  /-- `ARB` takes its next step; when it is idle, `p` is the port it is offered (rule R52). -/
  | arb (p : Port)
  /-- `PSQ` takes its next step; when it is idle, `r` is the requester it is offered (rule R52). -/
  | psq (r : Requester)
  /-- The crystal signals ready, if it is powered (rule R176). -/
  | xtal
  /-- `TIME` lets `d` microseconds pass (rule R179). -/
  | time (d : Nat)
  /-- The input `rst` is asserted and released (rule R190). -/
  | rst
deriving DecidableEq, Repr, Inhabited

/-- Free value: which agent moves at the `n`-th step, where the schedule the state holds says nothing
(rules R51, R52, R176: the spec fixes no interleaving, no grant order and no behaviour of the crystal; log 8). -/
opaque Config.freeMove : Nat → Move

/-- Free value: the chip's register-store byte at an address before the block's first update of it
(rule R192, `93_implementation_defined.md` U14). -/
opaque Config.storeAtReset : Nat → Byte

/-- OPEN parameter `RS_MAP` (rule R45) before its constraints; see `rsMap`. -/
opaque Config.rsMapRaw : CtlField → RsLoc

/-- Which register-store addresses are "precious" (rule R44) before its premise; see `precious`. No source
says. -/
opaque Config.precious : BitVec 24 → Bool

/-- OPEN parameter `K_A` (rules R5, R156). -/
opaque Config.kA : Byte

/-- OPEN parameter `K_B` (rules R5, R156). -/
opaque Config.kB : Byte

/-- OPEN parameter `BASE`, the base address of the slave space (rules R5, R57). -/
opaque Config.base : Nat

/-- OPEN parameter `T_REFSEL` before its bounds; see `duration`. -/
opaque Config.refselRaw : Nat

/-- OPEN parameter `T_SRC_SETTLE` before its bounds; see `duration`. -/
opaque Config.srcSettleRaw : Nat

/-- OPEN parameter `T_PDN_SETTLE` before its bounds; see `duration`. -/
opaque Config.pdnSettleRaw : Nat

/-- `T_DAC_STARTUP` before its lower bound; see `dacStartup`. -/
opaque Config.dacStartupRaw : Nat

end Sys2Proof
end

