-- ==== Sys2Proof/Machine/State.lean ====
section
/-! DEFINITION. The state of the block as plain data: everything rules R10 to R26, R40 to R49 and R179 give
it, the two reasons to stop, and the state after reset (rule R191). -/

namespace Sys2Proof.Machine

/-- The flags of rule R13. Bits 31:16 of `STATUS` are never stored: they read as 0. -/
structure Status where
  busy : Bool
  done : Bool
  err : Bool
  ovr : Bool
  ecode : BitVec 4
  einfo : BitVec 8
deriving DecidableEq, Repr

/-- The fields of `RES_FRM` (rule R22); bits 30:26 are never stored: they read as 0. -/
structure FrameResult where
  frame : BitVec 7
  hitime : BitVec 7
  delay : BitVec 2
  phase : Bit
  rcode : BitVec 4
  wcode : BitVec 2
  dsdSpeed : Bit
  dsdSrc : Bit
  dsd : Bit
  valid : Bool
deriving DecidableEq, Repr

/-- The engine the command in flight of a port waits for or runs on (rule R25, `pend`). -/
inductive Pend where
  | none | fu | arbWait | arbRun | psqWait | psqRun
deriving DecidableEq, Repr

/-- What belongs to one port: the nine registers of rule R12 (`STATUS`, `IFCFG`, `RES_DIV` and `RES_FRM`
by their fields, rules R13, R21, R22), the operand latches and `pend` of rule R25. -/
structure PortState where
  /-- `CMD`, `x[p][0]`. -/
  cmd : Word
  /-- `ARG_RATE`, `x[p][1]`. -/
  argRate : Word
  /-- `ARG_BCLK`, `x[p][2]`. -/
  argBclk : Word
  /-- `STATUS`, `x[p][3]`. -/
  status : Status
  /-- `IFCFG[p].MSTR`, bit 0 of `x[p][4]`. -/
  mstr : Bit
  /-- `IFCFG[p].FFMT`, bits 3:1 of `x[p][4]`. -/
  ffmt : BitVec 3
  /-- `IFBCLK[p]`, `x[p][5]`. -/
  ifbclk : Word
  /-- `RES_DIV[p].NUM`, bits 15:0 of `x[p][6]`. -/
  num : BitVec 16
  /-- `RES_DIV[p].DEN`, bits 31:16 of `x[p][6]`. -/
  den : BitVec 16
  /-- `RES_FRM[p]`, `x[p][7]`. -/
  frm : FrameResult
  /-- `RES_BCLK[p]`, `x[p][8]`. -/
  resBclk : Word
  cmdLatch : Word
  rateLatch : Word
  bclkLatch : Word
  pend : Pend
deriving DecidableEq, Repr

/-- The clock source (rule R15): EXTERNAL = 0, PLL = 1, RING_OSCILLATOR = 2; there is no fourth. -/
inductive ClkSrc where
  | external | pll | ringOscillator
deriving DecidableEq, Repr

/-- The clock lock (rule R20). -/
inductive Lock where
  | free
  | held (p : Port)
deriving DecidableEq, Repr

/-- The ClockState of rules R15 to R20. -/
structure ClockState where
  clkSrc : ClkSrc
  refSel : Bit
  pllBypass : Bit
  reqCnt : BitVec 8
  xtalBias : BitVec 2
  lock : Lock
deriving DecidableEq, Repr

/-- The step register of the arbiter (rule R14): `IDLE` or a label of the listings of rules R86, R88, R97,
R98, R100 to R104, R108, R111. -/
inductive ArbLabel where
  | idle
  | C0 | C1
  | A0 | A1 | A2 | A3 | A4 | A5 | A6 | A7
  | L0 | L1 | L2 | L3 | L4 | L5
  | W0 | W1
  | S0 | S1
  | X1 | X2 | X3 | X4 | X5
  | E6 | E7 | E8 | E9
  | P6 | P7 | P8 | P9 | P10
  | O1 | O2 | O3 | O4
deriving DecidableEq, Repr

/-- The return label of the source switch (rules R14, R99): the three labels its callers give. -/
inductive ReturnLabel where
  | A5 | L5 | W1
deriving DecidableEq, Repr

/-- The hidden state of the arbiter engine (rules R14, R25): `arb_seq`, `arb_ret`, `tgt`, `got`, `wt`. -/
structure ArbState where
  seq : ArbLabel
  ret : ReturnLabel
  tgt : BitVec 2
  got : Bool
  wt : Nat
deriving DecidableEq, Repr

/-- The step register of the power sequencer (rule R14): `IDLE` or a label of rules R153, R156. -/
inductive PsqLabel where
  | idle
  | D1 | D2 | D3 | D4 | D5 | D6
  | U1 | U2 | U3 | U4 | U5
deriving DecidableEq, Repr

/-- Whose sequence the power sequencer runs (rule R25, `psq_owner`). -/
inductive PsqOwner where
  | none
  | port (p : Port)
  | arb
deriving DecidableEq, Repr

/-- The state of the power sequencer (rules R14, R25): `psq_seq`, `psq_owner`, `psq_req_arb`, `wt`.
`arbReleased` is the model's own: it records that the sequence has been run for step L2 of `REL`, which
releases that step (rules R97, R151): DEDUCED, log 7. -/
structure PsqState where
  seq : PsqLabel
  owner : PsqOwner
  reqArb : Bool
  arbReleased : Bool
  wt : Nat
deriving DecidableEq, Repr

/-- The control output fields (rule R23). -/
structure Ctl where
  xtalPdn : Bit
  xtalRdyIe : Bit
  mclkSrcSel : BitVec 2
  mclkInt : Bit
  pllPdn : Bit
  mute : Bit
  pdnDoneInh : Bit
  pdnOut : Bit
  pdnPath : Bit
  asp3st : Bit
  scratchA : Byte
  scratchB : Byte
deriving DecidableEq, Repr

/-- An entry of the event history (rule R9). -/
inductive Event where
  /-- `RSUpdate(F, v)`, rule R43. -/
  | rsUpdate (f : CtlField) (v : Byte)
  /-- `BoardSel(k)`, rule R92. -/
  | boardSel (k : Bit)
  /-- `Wait(T)`, rule R180. -/
  | wait (w : WaitName)
  /-- `XtalRdy`, rule R176. -/
  | xtalRdy
  /-- `Issue(p, w)`, rule R61. -/
  | issue (p : Port) (w : Word)
  /-- `Complete(p, code)`, rules R170, R171. -/
  | complete (p : Port) (code : BitVec 4)
deriving DecidableEq, Repr

/-- The chip's register store (rules R40 to R43) as address and byte pairs, addresses strictly rising, no
entry equal to what an unlisted address reads as (`Memory.wf`). -/
abbrev Memory := List Host.Cell

/-- The whole state of the block and of the boundary it acts on. The last three fields are the model's
own: what the last host read returned (log 14), the moves the environment has scheduled (when the list is
empty the free value `Config.freeMove` chooses), and the counter that free value is applied to (log 8).
Registers are kept by their fields (log 16). -/
structure State where
  p0 : PortState
  p1 : PortState
  clk : ClockState
  arb : ArbState
  psq : PsqState
  ctl : Ctl
  /-- `SEL[0]` (rule R24). -/
  sel0 : Bool
  /-- `SEL[1]` (rule R24). -/
  sel1 : Bool
  /-- `xtal_rdy_latch` (rule R25). -/
  xtalRdyLatch : Bool
  /-- The register store behind `RS.update` (rule R43). -/
  store : Memory
  /-- The time base, in microseconds (rule R179; the unit is log 9). -/
  now : Nat
  /-- The event history (rule R9), oldest first. -/
  events : List Event
  rdata : Word
  sched : List Move
  tick : Nat
deriving DecidableEq, Repr

/-- Why the block stops with a fault. No rule of the spec stops the block, and each of these needs a state
no run reaches (`SeqInv` in Safety.lean excludes them; log 21). -/
inductive Fault where
  /-- Raised by an arbiter command whose step register holds a label of another command: no rule gives a
  next step. Safe: the model stops where no rule says anything. -/
  | strayArbLabel
  /-- Raised by a power-sequencer command whose step register holds a label of the other sequence. Safe. -/
  | strayPsqLabel
  /-- Raised when an engine is between two steps of a command and no port holds it (the lock is free, or the
  sequencer has no owner). Safe. -/
  | ownerless
deriving DecidableEq, Repr

/-- Why the block refuses an instruction. -/
inductive Refusal where
  /-- Raised by an arm of `exec` that has no meaning yet; no arm is left that raises it. Safe. -/
  | notModelled (mnemonic : String)
deriving DecidableEq, Repr

/-- What a step answers. -/
abbrev Result := Host.Outcome State Fault Refusal

/-- All flags clear (rule R13). -/
def Status.clear : Status :=
  { busy := false, done := false, err := false, ovr := false, ecode := 0, einfo := 0 }

/-- All fields of `RES_FRM` zero, `VALID` = 0 (rules R22, R170). -/
def FrameResult.zero : FrameResult :=
  { frame := 0, hitime := 0, delay := 0, phase := 0, rcode := 0, wcode := 0, dsdSpeed := 0, dsdSrc := 0,
    dsd := 0, valid := false }

/-- A port after reset (rule R191). The latches, "unspecified" there, are 0: DESIGN CHOICE, log 1. -/
def PortState.reset : PortState :=
  { cmd := 0, argRate := 0, argBclk := 0, status := Status.clear, mstr := 0, ffmt := 0, ifbclk := 0,
    num := 0, den := 0, frm := FrameResult.zero, resBclk := 0,
    cmdLatch := 0, rateLatch := 0, bclkLatch := 0, pend := .none }

/-- The ClockState after reset (rule R191). -/
def ClockState.reset : ClockState :=
  { clkSrc := .ringOscillator, refSel := 0, pllBypass := 1, reqCnt := 0, xtalBias := 0, lock := .free }

/-- The arbiter after reset (rule R191). `arb_ret`, `tgt`, `got` and `wt`, "unspecified" there, are A5, 0,
0 and 0: DESIGN CHOICE, log 1. -/
def ArbState.reset : ArbState := { seq := .idle, ret := .A5, tgt := 0, got := false, wt := 0 }

/-- The sequencer after reset (rule R191). `wt`, "unspecified" there, is 0: DESIGN CHOICE, log 1. -/
def PsqState.reset : PsqState :=
  { seq := .idle, owner := .none, reqArb := false, arbReleased := false, wt := 0 }

/-- The control fields after reset (rules R23, R191). -/
def Ctl.reset : Ctl :=
  { xtalPdn := 1, xtalRdyIe := 0, mclkSrcSel := 2, mclkInt := 0, pllPdn := 1, mute := 1, pdnDoneInh := 0,
    pdnOut := 1, pdnPath := 1, asp3st := 1, scratchA := 0, scratchB := 0 }

/-- The machine right after reset (rules R190, R191): every field at its value there, the event history
empty, nothing listed in the register store (rule R192). `now`, `rdata`, `sched` and `tick` start at 0 and
empty: DESIGN CHOICE, log 2. -/
def State.reset : State :=
  { p0 := PortState.reset, p1 := PortState.reset, clk := ClockState.reset, arb := ArbState.reset,
    psq := PsqState.reset, ctl := Ctl.reset, sel0 := false, sel1 := false, xtalRdyLatch := false,
    store := [], now := 0, events := [], rdata := 0, sched := [], tick := 0 }

end Sys2Proof.Machine
end

