-- ==== Sys2Proof/Machine/Flags.lean ====
section
/-! DEFINITION. The flags of the block: the errors a command can end with (rules R166, R167) and every way
`STATUS` is computed (rules R13, R61, R170, R171). There are no arithmetic condition codes (rule R13). -/

namespace Sys2Proof.Machine

/-- A Boolean flag as the bit software reads. -/
def bit (b : Bool) : Bit := BitVec.ofBool b

/-- The errors a command can end with: one per row of the table of rule R167, and one per code of rule
R166 that has no detail. -/
inductive CmdError where
  | xtalNotReady
  | unsupWidth
  | unsupFfmt
  | noReference
  | rateNotInTable
  | frameSize
  | noDividerRow
  | dsdRate
  | clkNotCfg
  | insuffClk
  | illegalOpcode
  | reservedBits
  | invalidSource
  | countOverflow
  | countUnderflow
  | cfgInUse
deriving DecidableEq, Repr

/-- `ECODE` of an error (rule R166). -/
def CmdError.ecode : CmdError → BitVec 4
  | .xtalNotReady => 1
  | .unsupWidth => 2
  | .unsupFfmt => 3
  | .noReference => 4
  | .rateNotInTable => 4
  | .frameSize => 4
  | .noDividerRow => 4
  | .dsdRate => 4
  | .clkNotCfg => 5
  | .insuffClk => 6
  | .illegalOpcode => 7
  | .reservedBits => 7
  | .invalidSource => 7
  | .countOverflow => 7
  | .countUnderflow => 7
  | .cfgInUse => 7

/-- `EINFO` of an error (rule R167); 0 where the rule lists no detail. -/
def CmdError.einfo : CmdError → BitVec 8
  | .xtalNotReady => 1
  | .unsupWidth => 0
  | .unsupFfmt => 0
  | .noReference => 1
  | .rateNotInTable => 2
  | .frameSize => 3
  | .noDividerRow => 4
  | .dsdRate => 5
  | .clkNotCfg => 0
  | .insuffClk => 0
  | .illegalOpcode => 1
  | .reservedBits => 2
  | .invalidSource => 3
  | .countOverflow => 4
  | .countUnderflow => 5
  | .cfgInUse => 6

/-- `STATUS` as the host reads it (rule R13); bits 31:16 read as 0. -/
def Status.word (s : Status) : Word :=
  0#16 ++ s.einfo ++ s.ecode ++ bit s.ovr ++ bit s.err ++ bit s.done ++ bit s.busy

/-- The flags after an accepted issue (rule R61): `OVR` keeps its value. -/
def Status.issued (s : Status) : Status :=
  { s with busy := true, done := false, err := false, ecode := 0, einfo := 0 }

/-- The flags after a `CMD` write dropped because the port was busy (rule R61). -/
def Status.overrun (s : Status) : Status := { s with ovr := true }

/-- The flags after `done` (rule R171): `ERR`, `ECODE` and `EINFO` keep their values. -/
def Status.ended (s : Status) : Status := { s with busy := false, done := true }

/-- The flags after `raise` (rule R170). -/
def Status.failed (s : Status) (e : CmdError) : Status :=
  { s with busy := false, done := true, err := true, ecode := e.ecode, einfo := e.einfo }

end Sys2Proof.Machine
end

