-- ==== Sys2Proof/Machine/Params.lean ====
section
/-! DEFINITION. The parameters of rule R5: the fixed ones as numbers, the OPEN ones as free values held
inside the bounds the spec gives them. Times are in microseconds. -/

namespace Sys2Proof.Machine

/-- `REF_HZ[k]` (rule R5): 22 579 200 Hz and 24 576 000 Hz. PRESUMED by the spec itself
(`93_implementation_defined.md` G1), log 3. -/
def refHz (k : Bit) : Nat := if k = 0 then 22579200 else 24576000

/-- `CNT_MAX` (rule R5), the largest value of the 8-bit request counter. -/
def cntMax : BitVec 8 := 255

/-- `DIV_ALLOW_GT1` (rules R5, R124): false, log 19. -/
def divAllowGt1 : Bool := false

/-- `T_XTAL_TIMEOUT` (rule R5): 100 ms. -/
def xtalTimeout : Nat := 100000

/-- The upper end of the OPEN settle times (rule R5): 99 ms. -/
def maxSettle : Nat := 99000

/-- `T_DAC_STARTUP` (rule R5): any value of at least 10 ms; the 12 ms of the source's window bind nothing (rule
R156). A free value: DEDUCED, log 4. -/
def dacStartup : Nat := 10000 + Config.dacStartupRaw

/-- The durations of the four settle waits (rule R5): `T_REFSEL` and `T_SRC_SETTLE` any value of
[10 µs, 99 ms], `T_PDN_SETTLE` any value of it that is less than `T_DAC_STARTUP` (log 13). -/
def duration : WaitName → Nat
  | .T_REFSEL => 10 + Config.refselRaw % 98991
  | .T_SRC_SETTLE => 10 + Config.srcSettleRaw % 98991
  | .T_PDN_SETTLE => 10 + Config.pdnSettleRaw % (min dacStartup (maxSettle + 1) - 10)
  | .T_DAC_STARTUP => dacStartup

/-- The upper bound rule R5 gives a settle time; it gives `T_DAC_STARTUP` none. -/
def durationBound : WaitName → Option Nat
  | .T_REFSEL => some maxSettle
  | .T_SRC_SETTLE => some maxSettle
  | .T_PDN_SETTLE => some maxSettle
  | .T_DAC_STARTUP => none

/-- The width of a control field (rule R23). -/
def fieldWidth : CtlField → Nat
  | .XTAL_PDN => 1
  | .XTAL_RDY_IE => 1
  | .MCLK_SRC_SEL => 2
  | .MCLK_INT => 1
  | .PLL_PDN => 1
  | .MUTE => 1
  | .PDN_DONE_INH => 1
  | .PDN_OUT => 1
  | .PDN_PATH => 1
  | .ASP_3ST => 1
  | .SCRATCH_A => 8
  | .SCRATCH_B => 8

/-- The twelve control fields (rule R23). -/
def allFields : List CtlField :=
  [.XTAL_PDN, .XTAL_RDY_IE, .MCLK_SRC_SEL, .MCLK_INT, .PLL_PDN, .MUTE, .PDN_DONE_INH, .PDN_OUT, .PDN_PATH,
    .ASP_3ST, .SCRATCH_A, .SCRATCH_B]

/-- One field's location meets rule R45: its mask is a run of as many 1 bits as the field is wide, starting
at bit `shift`, and fits the byte. -/
def locOk (f : CtlField) (l : RsLoc) : Bool :=
  l.shift.toNat + fieldWidth f ≤ 8 && l.mask.toNat == (2 ^ fieldWidth f - 1) * 2 ^ l.shift.toNat

/-- Two fields' locations do not overlap (rule R45): different addresses, or disjoint masks. -/
def locDisjoint (l m : RsLoc) : Bool := l.addr != m.addr || l.mask &&& m.mask == 0

/-- The constraints rule R45 puts on `RS_MAP`, and the premise of rule R44 on it and the precious addresses
`pr`: no control field lies at a precious address. -/
def rsMapOk (m : CtlField → RsLoc) (pr : BitVec 24 → Bool) : Bool :=
  allFields.all fun f =>
    locOk f (m f) && !pr (m f).addr && allFields.all fun g => f == g || locDisjoint (m f) (m g)

/-- Some map that meets rule R45, each field in a byte of its own; it stands in only where the free values
do not meet rules R44 and R45, so no statement can use its addresses (DESIGN CHOICE, log 12). -/
def rsMapSample (f : CtlField) : RsLoc :=
  { addr := BitVec.ofNat 24 (allFields.idxOf f), mask := BitVec.ofNat 8 (2 ^ fieldWidth f - 1), shift := 0 }

/-- `RS_MAP` (rule R45): any map that meets the constraints. -/
def rsMap : CtlField → RsLoc := if rsMapOk Config.rsMapRaw Config.precious then Config.rsMapRaw else rsMapSample

/-- The precious addresses of the register store (rule R44): any set in which no control field lies, as the
rule tells a model to presume (log 18). -/
def precious : BitVec 24 → Bool :=
  if rsMapOk Config.rsMapRaw Config.precious then Config.precious else fun _ => false

end Sys2Proof.Machine
end

