-- ==== Sys2Proof/Machine/Ops.lean ====
section
/-! DEFINITION. The named operations the meanings are written over: the schedule, the port registers, the
event history, the register store, the control fields, waits, and the two ways a command ends, `raise`
(rule R170) and `done` (rule R171). -/

namespace Sys2Proof.Machine

/-! ### The schedule (rules R8, R51, R52) -/

/-- The agent that moves next: the first scheduled move, or the free value when none is scheduled. -/
def State.move (s : State) : Move :=
  match s.sched with
  | m :: _ => m
  | [] => Config.freeMove s.tick

/-- The move has been made: the next one is due. -/
def State.advance (s : State) : State := { s with sched := s.sched.tail, tick := s.tick + 1 }

/-! ### Ports -/

/-- The state of a port. -/
def State.port (s : State) : Port → PortState
  | .p0 => s.p0
  | .p1 => s.p1

/-- Replace the state of a port. -/
def State.setPort (s : State) (p : Port) (q : PortState) : State :=
  match p with
  | .p0 => { s with p0 := q }
  | .p1 => { s with p1 := q }

/-- The number of a port (rule R182). -/
def portBit : Port → Bit
  | .p0 => 0
  | .p1 => 1

/-- The other port. -/
def otherPort : Port → Port
  | .p0 => .p1
  | .p1 => .p0

/-! ### The event history (rule R9) -/

/-- Append one event. -/
def State.log (s : State) (e : Event) : State := { s with events := s.events ++ [e] }

/-! ### The register store (rules R41 to R43) -/

/-- What an unlisted address reads as: a free byte (rule R192, U14), log 5. -/
def Memory.unlisted (a : Nat) : Byte := Config.storeAtReset a

/-- `get(addr)` (rule R41). -/
def Memory.read (m : Memory) (a : Nat) : Byte :=
  match m with
  | [] => Memory.unlisted a
  | c :: m => if c.1 = a then c.2 else Memory.read m a

/-- Put the byte `v` at `a` in a list with rising addresses; a byte an unlisted address reads as is not
listed. -/
def Memory.write (m : Memory) (a : Nat) (v : Byte) : Memory :=
  match m with
  | [] => if v = Memory.unlisted a then [] else [(a, v)]
  | c :: m =>
    if a < c.1 then if v = Memory.unlisted a then c :: m else (a, v) :: c :: m
    else if c.1 = a then if v = Memory.unlisted a then m else (a, v) :: m
    else c :: Memory.write m a v

/-- `updateBits(addr, mask, value)` (rule R43). -/
def Memory.updateBits (m : Memory) (a : Nat) (mask v : Byte) : Memory :=
  Memory.write m a ((Memory.read m a &&& ~~~mask) ||| (v &&& mask))

/-- The canonical form: addresses strictly rising and below 2^24 (rule R41), no entry equal to what an
unlisted address reads as. -/
def Memory.wf : Memory → Bool
  | [] => true
  | [c] => decide (c.1 < 2 ^ 24) && c.2 != Memory.unlisted c.1
  | c :: d :: m => decide (c.1 < d.1) && c.2 != Memory.unlisted c.1 && Memory.wf (d :: m)

/-! ### The control fields (rules R23, R43) -/

/-- The value of a control field, zero-extended to a byte. -/
def Ctl.get (c : Ctl) : CtlField → Byte
  | .XTAL_PDN => c.xtalPdn.setWidth 8
  | .XTAL_RDY_IE => c.xtalRdyIe.setWidth 8
  | .MCLK_SRC_SEL => c.mclkSrcSel.setWidth 8
  | .MCLK_INT => c.mclkInt.setWidth 8
  | .PLL_PDN => c.pllPdn.setWidth 8
  | .MUTE => c.mute.setWidth 8
  | .PDN_DONE_INH => c.pdnDoneInh.setWidth 8
  | .PDN_OUT => c.pdnOut.setWidth 8
  | .PDN_PATH => c.pdnPath.setWidth 8
  | .ASP_3ST => c.asp3st.setWidth 8
  | .SCRATCH_A => c.scratchA
  | .SCRATCH_B => c.scratchB

/-- `CTL.F <- v`. -/
def Ctl.set (c : Ctl) (f : CtlField) (v : Byte) : Ctl :=
  match f with
  | .XTAL_PDN => { c with xtalPdn := v.setWidth 1 }
  | .XTAL_RDY_IE => { c with xtalRdyIe := v.setWidth 1 }
  | .MCLK_SRC_SEL => { c with mclkSrcSel := v.setWidth 2 }
  | .MCLK_INT => { c with mclkInt := v.setWidth 1 }
  | .PLL_PDN => { c with pllPdn := v.setWidth 1 }
  | .MUTE => { c with mute := v.setWidth 1 }
  | .PDN_DONE_INH => { c with pdnDoneInh := v.setWidth 1 }
  | .PDN_OUT => { c with pdnOut := v.setWidth 1 }
  | .PDN_PATH => { c with pdnPath := v.setWidth 1 }
  | .ASP_3ST => { c with asp3st := v.setWidth 1 }
  | .SCRATCH_A => { c with scratchA := v }
  | .SCRATCH_B => { c with scratchB := v }

/-- The value a field's update carries to the register store, in the place of the field in its byte (rules
R43, R45). -/
def fieldBits (f : CtlField) (v : Byte) : Byte := (v <<< (rsMap f).shift.toNat) &&& (rsMap f).mask

/-- `RS.update(F, v)` (rule R43): the field, the event and the register-store transaction, whether or not
the value changes. -/
def State.rsUpdate (s : State) (f : CtlField) (v : Byte) : State :=
  { s with
    ctl := s.ctl.set f v
    events := s.events ++ [.rsUpdate f v]
    store := Memory.updateBits s.store (rsMap f).addr.toNat (rsMap f).mask (fieldBits f v) }

/-- `board_select(k)` (rule R92): both outputs change in one step. -/
def State.boardSelect (s : State) (k : Bit) : State :=
  { s with sel0 := k == 0, sel1 := k == 1, events := s.events ++ [.boardSel k] }

/-- The crystal-ready event (rule R176): taken only while `CTL.XTAL_PDN` = 0. -/
def State.xtalReady (s : State) : State :=
  if s.ctl.xtalPdn = 0 then { s with xtalRdyLatch := true, events := s.events ++ [.xtalRdy] } else s

/-! ### Time and waits (rules R179, R180) -/

/-- How much of `d` passes in one move of `TIME`: all of it, but that the crystal-ready wait lasts at most
`T_XTAL_TIMEOUT` (rule R180, U15), so at X4 no time goes by beyond that; the arbiter takes its step first
(DEDUCED, log 22). -/
def State.timeStep (s : State) (d : Nat) : Nat :=
  if s.arb.seq = .X4 then min d (s.arb.wt + xtalTimeout - s.now) else d

/-- Time passes (rule R179): `now` never goes back. -/
def State.passTime (s : State) (d : Nat) : State := { s with now := s.now + s.timeStep d }

/-- A settle wait is over when at least its duration has passed since it began (rule R180). No duration is
above its bound, so the first test changes nothing (`waitOver_iff`); it lets a run whose bounded waits are
that long be evaluated although the durations are free values. -/
def waitOver (w : WaitName) (elapsed : Nat) : Bool :=
  (durationBound w).any (· ≤ elapsed) || decide (duration w ≤ elapsed)

/-- `wait(T)` executed by the arbiter (rule R180). -/
def State.arbWait (s : State) (w : WaitName) : State :=
  { s with arb := { s.arb with wt := s.now }, events := s.events ++ [.wait w] }

/-- `wait(T)` executed by the power sequencer (rule R180). -/
def State.psqWait (s : State) (w : WaitName) : State :=
  { s with psq := { s.psq with wt := s.now }, events := s.events ++ [.wait w] }

/-- The settle wait that must be over before the arbiter may take the step of a label: the one its
predecessor began (rules R93, R104, R108, R111). -/
def arbWaitBefore : ArbLabel → Option WaitName
  | .A4 => some .T_REFSEL
  | .E8 => some .T_SRC_SETTLE
  | .P8 => some .T_SRC_SETTLE
  | .P10 => some .T_SRC_SETTLE
  | .O3 => some .T_SRC_SETTLE
  | _ => none

/-- The same for the power sequencer (rules R153, R156). -/
def psqWaitBefore : PsqLabel → Option WaitName
  | .D5 => some .T_PDN_SETTLE
  | .U5 => some .T_DAC_STARTUP
  | _ => none

/-- The arbiter is not inside a settle wait. -/
def State.arbReady (s : State) : Bool :=
  match arbWaitBefore s.arb.seq with
  | some w => waitOver w (s.now - s.arb.wt)
  | none => true

/-- The power sequencer is not inside a settle wait. -/
def State.psqReady (s : State) : Bool :=
  match psqWaitBefore s.psq.seq with
  | some w => waitOver w (s.now - s.psq.wt)
  | none => true

/-! ### Step registers (rule R14) -/

/-- `goto` a label of the arbiter. -/
def State.arbGoto (s : State) (l : ArbLabel) : State := { s with arb := { s.arb with seq := l } }

/-- `goto` a label of the power sequencer. -/
def State.psqGoto (s : State) (l : PsqLabel) : State := { s with psq := { s.psq with seq := l } }

/-! ### The end of a command (rules R82, R170, R171) -/

/-- The engines that execute commands (rule R62). -/
inductive Engine where
  | fu | arb | psq
deriving DecidableEq, Repr

/-- The arbiter gives the lock back and goes idle (rule R82). -/
def State.unlock (s : State) : State :=
  { s with clk := { s.clk with lock := .free }, arb := { s.arb with seq := .idle } }

/-- What `raise` and `done` share: the flags, `pend`, the arbiter's lock, the event. -/
def State.endCommand (s : State) (eng : Engine) (p : Port) (st : Status) (code : BitVec 4) : State :=
  let t := (s.setPort p { s.port p with status := st, pend := .none }).log (.complete p code)
  if eng = .arb then t.unlock else t

/-- `raise E(info)` (rule R170) by a step of the command of port `p` on engine `eng`. Nothing earlier is
undone. (`FMT` and `DIVL` zero their results first: `State.zeroResults`.) -/
def State.raiseError (s : State) (eng : Engine) (p : Port) (e : CmdError) : State :=
  s.endCommand eng p ((s.port p).status.failed e) e.ecode

/-- `done` (rule R171) by the last step of the command of port `p` on engine `eng`. -/
def State.finish (s : State) (eng : Engine) (p : Port) : State :=
  s.endCommand eng p (s.port p).status.ended 0

/-- The result registers of a port zeroed, as a failing `FMT` or `DIVL` leaves them (rules R22, R170). -/
def State.zeroResults (s : State) (p : Port) : State :=
  s.setPort p { s.port p with num := 0, den := 0, frm := FrameResult.zero, resBclk := 0 }

/-! ### Reset (rules R190 to R192) -/

/-- The input `rst`: every piece of state at its reset value, the event history begins empty, a command in
flight is abandoned, nothing is written to the register store, and time goes on (log 11). -/
def State.applyReset (s : State) : State :=
  { State.reset with store := s.store, now := s.now, sched := s.sched, tick := s.tick }

end Sys2Proof.Machine
end

