-- ==== Sys2Proof/Machine/Tables.lean ====
section
/-! DEFINITION. The three read-only lookup tables (rule R47): rates (R121), widths (R122), dividers (R124). -/

namespace Sys2Proof.Machine

/-- The rate table (rule R121): rate in Hz and `RCODE`. -/
def rateTable : List (Nat × BitVec 4) :=
  [(32000, 0), (44100, 1), (48000, 2), (88200, 3), (96000, 4), (176400, 5), (192000, 6), (352800, 7), (384000, 8)]

/-- `RATES` (rule R5): the supported rates. -/
def rates : List Nat := rateTable.map (·.1)

/-- The rate code of a rate, none for a rate not listed (rule R121). -/
def rateCode (r : Nat) : Option (BitVec 4) := (rateTable.find? fun row => row.1 == r).map (·.2)

/-- The width table (rule R122): width in bits and `WCODE`. -/
def widthTable : List (Nat × BitVec 2) := [(8, 0), (16, 1), (24, 2), (32, 3)]

/-- The width code of a width, none for a width not listed (rule R122). -/
def widthCode (w : Nat) : Option (BitVec 2) := (widthTable.find? fun row => row.1 == w).map (·.2)

/-- `FRAMES` (rule R123): the supported frame sizes. -/
def frameSizes : List Nat := [16, 32, 48, 64]

/-- A row of the divider table (rule R124): numerator and denominator for a frame size and a rate. -/
structure DivRow where
  frame : Nat
  rate : Nat
  num : Nat
  den : Nat
deriving DecidableEq, Repr

/-- The rows (`k` = 0, `fs` = 16) of rule R124. -/
def divRows0_16 : List DivRow :=
  [⟨16, 32000, 10, 441⟩, ⟨16, 44100, 1, 32⟩, ⟨16, 48000, 5, 147⟩, ⟨16, 88200, 1, 16⟩, ⟨16, 96000, 10, 147⟩,
    ⟨16, 176400, 1, 8⟩, ⟨16, 192000, 20, 147⟩, ⟨16, 352800, 1, 4⟩, ⟨16, 384000, 40, 147⟩]

/-- The rows (`k` = 0, `fs` = 32) of rule R124. -/
def divRows0_32 : List DivRow :=
  [⟨32, 32000, 20, 441⟩, ⟨32, 44100, 1, 16⟩, ⟨32, 48000, 10, 147⟩, ⟨32, 88200, 1, 8⟩, ⟨32, 96000, 20, 147⟩,
    ⟨32, 176400, 1, 4⟩, ⟨32, 192000, 40, 147⟩, ⟨32, 352800, 1, 2⟩, ⟨32, 384000, 80, 147⟩]

/-- The rows (`k` = 0, `fs` = 48) of rule R124. -/
def divRows0_48 : List DivRow :=
  [⟨48, 32000, 10, 147⟩, ⟨48, 44100, 3, 32⟩, ⟨48, 48000, 5, 49⟩, ⟨48, 88200, 3, 16⟩, ⟨48, 96000, 10, 49⟩,
    ⟨48, 176400, 3, 8⟩, ⟨48, 192000, 20, 49⟩, ⟨48, 352800, 3, 4⟩, ⟨48, 384000, 40, 49⟩]

/-- The rows (`k` = 0, `fs` = 64) of rule R124, but for the one with ratio above 1. -/
def divRows0_64 : List DivRow :=
  [⟨64, 32000, 40, 441⟩, ⟨64, 44100, 1, 8⟩, ⟨64, 48000, 20, 147⟩, ⟨64, 88200, 1, 4⟩, ⟨64, 96000, 40, 147⟩,
    ⟨64, 176400, 1, 2⟩, ⟨64, 192000, 80, 147⟩, ⟨64, 352800, 1, 1⟩]

/-- The rows (`k` = 1, `fs` = 16) of rule R124. -/
def divRows1_16 : List DivRow :=
  [⟨16, 32000, 1, 48⟩, ⟨16, 44100, 147, 5120⟩, ⟨16, 48000, 1, 32⟩, ⟨16, 88200, 147, 2560⟩, ⟨16, 96000, 1, 16⟩,
    ⟨16, 176400, 147, 1280⟩, ⟨16, 192000, 1, 8⟩, ⟨16, 352800, 147, 640⟩, ⟨16, 384000, 1, 4⟩]

/-- The rows (`k` = 1, `fs` = 32) of rule R124. -/
def divRows1_32 : List DivRow :=
  [⟨32, 32000, 1, 24⟩, ⟨32, 44100, 147, 2560⟩, ⟨32, 48000, 1, 16⟩, ⟨32, 88200, 147, 1280⟩, ⟨32, 96000, 1, 8⟩,
    ⟨32, 176400, 147, 640⟩, ⟨32, 192000, 1, 4⟩, ⟨32, 352800, 147, 320⟩, ⟨32, 384000, 1, 2⟩]

/-- The rows (`k` = 1, `fs` = 48) of rule R124. -/
def divRows1_48 : List DivRow :=
  [⟨48, 32000, 1, 16⟩, ⟨48, 44100, 441, 5120⟩, ⟨48, 48000, 3, 32⟩, ⟨48, 88200, 441, 2560⟩, ⟨48, 96000, 3, 16⟩,
    ⟨48, 176400, 441, 1280⟩, ⟨48, 192000, 3, 8⟩, ⟨48, 352800, 441, 640⟩, ⟨48, 384000, 3, 4⟩]

/-- The rows (`k` = 1, `fs` = 64) of rule R124. -/
def divRows1_64 : List DivRow :=
  [⟨64, 32000, 1, 12⟩, ⟨64, 44100, 147, 1280⟩, ⟨64, 48000, 1, 8⟩, ⟨64, 88200, 147, 640⟩, ⟨64, 96000, 1, 4⟩,
    ⟨64, 176400, 147, 320⟩, ⟨64, 192000, 1, 2⟩, ⟨64, 352800, 147, 160⟩, ⟨64, 384000, 1, 1⟩]

/-- The row with ratio above 1, in the table only when `DIV_ALLOW_GT1` is set (rule R124, U2). -/
def divRowGt1 : List DivRow := if divAllowGt1 then [⟨64, 384000, 160, 147⟩] else []

/-- The divider table (rule R124) under reference `k`. -/
def divTable (k : Bit) : List DivRow :=
  if k = 0 then divRows0_16 ++ divRows0_32 ++ divRows0_48 ++ divRows0_64 ++ divRowGt1
  else divRows1_16 ++ divRows1_32 ++ divRows1_48 ++ divRows1_64

/-- `DIVLOOKUP(k, fs, r)` (rule R125): the numerator and denominator of the row, or none. -/
def divLookup (k : Bit) (fs r : Nat) : Option (Nat × Nat) :=
  ((divTable k).find? fun row => row.frame == fs && row.rate == r).map fun row => (row.num, row.den)

end Sys2Proof.Machine
end

