-- ==== Sys2Proof/Machine/Operands.lean ====
section
/-! DEFINITION. Every operand form: the port a command belongs to, the latched operands (rules R25, R56),
the numeric codes of the enums (rules R15, R21), the reference of a divider lookup (rule R140), and the words
software reads from the registers of a port (rules R12, R13, R21, R22). -/

namespace Sys2Proof.Machine

/-- The port whose command the agent that moves now executes: a format unit's own; the port holding the
lock, for the arbiter (rule R20), or the one it is offered when the lock is free; for the sequencer the
owner's (rule R25), or the requester's when it has none. The sequencer works for the arbiter on behalf of
the port holding the lock (rule R54). Where no engine moves it is port 0, which `step` never uses (log 20). -/
def State.execPort (s : State) : Port :=
  match s.move with
  | .fu p => p
  | .arb p => lockHolder p
  | .psq r =>
    match s.psq.owner, r with
    | .port q, _ => q
    | .arb, _ => lockHolder .p0
    | .none, .port p => p
    | .none, .arb => lockHolder .p0
  | .host _ => .p0
  | .xtal => .p0
  | .time _ => .p0
  | .rst => .p0
where
  /-- The port holding the lock, or the given one when it is free. -/
  lockHolder (p : Port) : Port :=
    match s.clk.lock with
    | .held q => q
    | .free => p

/-- The rate operand in Hz: `rate_latch[p]` (rules R25, R60). -/
def State.rate (s : State) (p : Port) : Nat := (s.port p).rateLatch.toNat

/-- The 2-bit code of a clock source (rule R15), also the code of `TGT` (rule R64). -/
def sourceCode : ClkSrc → BitVec 2
  | .external => 0
  | .pll => 1
  | .ringOscillator => 2

/-- The four frame formats DOC0 names (rule R21). -/
inductive FrameFormat where
  | i2s | leftJustified | dspA | dspB
deriving DecidableEq, Repr

/-- `FFMT` (rule R21): 0 to 3 name a format, 4 to 7 none (rule R132). -/
def frameFormat (f : BitVec 3) : Option FrameFormat :=
  match f.toNat with
  | 0 => some .i2s
  | 1 => some .leftJustified
  | 2 => some .dspA
  | 3 => some .dspB
  | _ => none

/-- The reference of a `DIVL` (rule R140, step V3): the `REF` bit when `REFX` = 1, else `ref_sel`. -/
def divlReference (refx ref refSel : Bit) : Bit := if refx = 1 then ref else refSel

/-- `IFCFG` as the host reads it (rule R12): `MSTR` in bit 0, `FFMT` in bits 3:1. -/
def PortState.ifcfgWord (q : PortState) : Word := 0#28 ++ q.ffmt ++ q.mstr

/-- `RES_DIV` as the host reads it (rule R22). -/
def PortState.resDivWord (q : PortState) : Word := q.den ++ q.num

/-- `RES_FRM` as the host reads it (rule R22); bits 30:26 read as 0. -/
def FrameResult.word (r : FrameResult) : Word :=
  bit r.valid ++ 0#5 ++ r.dsd ++ r.dsdSrc ++ r.dsdSpeed ++ r.wcode ++ r.rcode ++ r.phase ++ r.delay ++
    r.hitime ++ r.frame

end Sys2Proof.Machine
end

