-- ==== Sys2Proof/Machine/HostPort.lean ====
section
/-! DEFINITION. The slave register space (rules R12, R26, R46): reads, writes, and the issue of a command
(rules R61, R71). -/

namespace Sys2Proof.Machine

/-- The nine registers of a port (rule R12). -/
inductive PortReg where
  | CMD | ARG_RATE | ARG_BCLK | STATUS | IFCFG | IFBCLK | RES_DIV | RES_FRM | RES_BCLK
deriving DecidableEq, Repr

/-- The registers of the slave space (rule R46). -/
inductive SlaveReg where
  | port (p : Port) (r : PortReg)
  | CLKSTAT | CTLOUT | SCRATCH
deriving DecidableEq, Repr

/-- Register `i` of a port (rule R12). -/
def portReg : Nat → Option PortReg
  | 0 => some .CMD
  | 1 => some .ARG_RATE
  | 2 => some .ARG_BCLK
  | 3 => some .STATUS
  | 4 => some .IFCFG
  | 5 => some .IFBCLK
  | 6 => some .RES_DIV
  | 7 => some .RES_FRM
  | 8 => some .RES_BCLK
  | _ => none

/-- The number of a port register (rule R12). -/
def PortReg.index : PortReg → Nat
  | .CMD => 0
  | .ARG_RATE => 1
  | .ARG_BCLK => 2
  | .STATUS => 3
  | .IFCFG => 4
  | .IFBCLK => 5
  | .RES_DIV => 6
  | .RES_FRM => 7
  | .RES_BCLK => 8

/-- The offset of a register from `BASE` (rules R12, R26). -/
def SlaveReg.offset : SlaveReg → Nat
  | .port .p0 r => 4 * r.index
  | .port .p1 r => 0x40 + 4 * r.index
  | .CLKSTAT => 0x80
  | .CTLOUT => 0x84
  | .SCRATCH => 0x88

/-- The register an access reaches (rule R46; by offset from `BASE`, log 10): none unless it is a whole
aligned 32-bit word at an offset that holds a register. -/
def slaveReg (size offset : Nat) : Option SlaveReg :=
  if size = 4 ∧ offset % 4 = 0 then
    if offset < 0x40 then (portReg (offset / 4)).map (.port .p0)
    else if offset < 0x80 then (portReg ((offset - 0x40) / 4)).map (.port .p1)
    else if offset = 0x80 then some .CLKSTAT
    else if offset = 0x84 then some .CTLOUT
    else if offset = 0x88 then some .SCRATCH
    else none
  else none

/-- The bus address of a register (rules R12, R57): `BASE` is the platform's. -/
def slaveAddress (r : SlaveReg) : Nat := Config.base + r.offset

/-- The access a bus read of a 32-bit word at an absolute address makes; below `BASE` it is not the
block's. -/
def busRead (addr : Nat) : Option HostAccess :=
  if Config.base ≤ addr then some (.read 4 (addr - Config.base)) else none

/-- A register of a port as the host reads it (rule R12). -/
def PortState.regWord (q : PortState) : PortReg → Word
  | .CMD => q.cmd
  | .ARG_RATE => q.argRate
  | .ARG_BCLK => q.argBclk
  | .STATUS => q.status.word
  | .IFCFG => q.ifcfgWord
  | .IFBCLK => q.ifbclk
  | .RES_DIV => q.resDivWord
  | .RES_FRM => q.frm.word
  | .RES_BCLK => q.resBclk

/-- The lock as `CLKSTAT` shows it (rule R26): bit 1 the port holding it, bit 0 whether it is held. -/
def lockBits : Lock → BitVec 2
  | .free => 0#1 ++ 0#1
  | .held p => portBit p ++ 1#1

/-- `CLKSTAT` (rule R26). -/
def State.clkstatWord (s : State) : Word :=
  0#8 ++ s.clk.reqCnt ++ 0#7 ++ bit (s.psq.owner != .none) ++ lockBits s.clk.lock ++ s.clk.xtalBias ++
    s.clk.pllBypass ++ s.clk.refSel ++ sourceCode s.clk.clkSrc

/-- `CTLOUT` (rule R26). -/
def State.ctloutWord (s : State) : Word :=
  0#18 ++ bit s.xtalRdyLatch ++ s.ctl.asp3st ++ s.ctl.pdnPath ++ s.ctl.pdnOut ++ s.ctl.pdnDoneInh ++
    s.ctl.mute ++ bit s.sel1 ++ bit s.sel0 ++ s.ctl.xtalRdyIe ++ s.ctl.mclkInt ++ s.ctl.mclkSrcSel ++
    s.ctl.pllPdn ++ s.ctl.xtalPdn

/-- `SCRATCH` (rule R26). -/
def State.scratchWord (s : State) : Word := 0#16 ++ s.ctl.scratchB ++ s.ctl.scratchA

/-- A register of the slave space as the host reads it (rules R12, R26). -/
def State.regWord (s : State) : SlaveReg → Word
  | .port p r => (s.port p).regWord r
  | .CLKSTAT => s.clkstatWord
  | .CTLOUT => s.ctloutWord
  | .SCRATCH => s.scratchWord

/-- What a slave read returns (rule R46): 0 where there is no register. -/
def State.slaveRead (s : State) (size offset : Nat) : Word :=
  match slaveReg size offset with
  | some r => s.regWord r
  | none => 0

/-- The engine of a command (rule R62). -/
def instrEngine : Instr → Engine
  | .nop => .fu
  | .acq => .arb
  | .rel => .arb
  | .sws _ => .arb
  | .pdn => .psq
  | .pup => .psq
  | .sfmt _ _ => .fu
  | .sclk => .fu
  | .fmt _ _ _ => .fu
  | .divl _ _ _ _ => .fu
  | .cfg _ _ => .arb

/-- What a command waits for when it has been issued. -/
def enginePend : Engine → Pend
  | .fu => .fu
  | .arb => .arbWait
  | .psq => .psqWait

/-- The decode of the issue step (rule R71): `pend` for a word; an illegal word goes to the format unit. -/
def issuePend (w : Word) : Pend :=
  match decode w with
  | .ok i => enginePend (instrEngine i)
  | .error _ => .fu

/-- A port after its `CMD` write was accepted (rule R61). -/
def PortState.issued (q : PortState) (w : Word) : PortState :=
  { q with
    cmd := w
    cmdLatch := w
    rateLatch := q.argRate
    bclkLatch := q.argBclk
    status := q.status.issued
    pend := issuePend w }

/-- The issue step (rule R61): a write of `w` to `CMD` of port `p`. -/
def State.issue (s : State) (p : Port) (w : Word) : State :=
  let q := s.port p
  if q.status.busy then s.setPort p { q with status := q.status.overrun }
  else (s.setPort p (q.issued w)).log (.issue p w)

/-- A slave write (rules R12, R26, R46): ignored where there is no register or a read-only one. -/
def State.slaveWrite (s : State) (size offset : Nat) (v : Word) : State :=
  match slaveReg size offset with
  | some (.port p .CMD) => s.issue p v
  | some (.port p .ARG_RATE) => s.setPort p { s.port p with argRate := v }
  | some (.port p .ARG_BCLK) => s.setPort p { s.port p with argBclk := v }
  | _ => s

/-- One host access. A read changes nothing but what the host has read last, a field of the model's. -/
def State.hostAccess (s : State) : HostAccess → State
  | .read size offset => { s with rdata := s.slaveRead size offset }
  | .write size offset v => s.slaveWrite size offset v

end Sys2Proof.Machine
end

