-- ==== Sys2Proof/Machine/Format.lean ====
section
/-! DEFINITION. The commands of the format units: `NOP` (rule R83), `SFMT`, `SCLK`, `FMT`, `DIVL` (rules
R120 to R142). Each is one atomic step. All arithmetic is on natural numbers (rule R141). -/

namespace Sys2Proof.Machine

/-- The outcome of a meaning: the state it reached, with the agent's move made, or a fault. -/
def answer : Except Fault State → Result
  | .ok t => .next t.advance
  | .error f => .fault f

/-- `NOP` (rule R83). -/
def execNop (s : State) : Result := answer (.ok (s.finish .fu s.execPort))

/-- `SFMT` (rule R126). -/
def execSfmt (ffmt : BitVec 3) (mstr : Bit) (s : State) : Result :=
  let p := s.execPort
  answer (.ok ((s.setPort p { s.port p with ffmt := ffmt, mstr := mstr }).finish .fu p))

/-- `SCLK` (rule R127). -/
def execSclk (s : State) : Result :=
  let p := s.execPort
  answer (.ok ((s.setPort p { s.port p with ifbclk := (s.port p).bclkLatch }).finish .fu p))

/-- `timing(F, bcw)` (rule R138): hi-time, delay, phase. -/
def timing (f : FrameFormat) (bcw : Nat) : Nat × BitVec 2 × Bit :=
  match f with
  | .i2s => (bcw, 2, 0)
  | .leftJustified => (bcw, 2, 1)
  | .dspA => (1, 2, 1)
  | .dspB => (1, 0, 1)

/-- What a successful `FMT` or `DIVL` writes to the result registers (rules R22, R130, R140). -/
structure LookupResult where
  num : BitVec 16
  den : BitVec 16
  bclk : Word
  frm : FrameResult
deriving DecidableEq, Repr

/-- The bit clock of step F5 (rule R135): the explicit one, or the derived one in CLOCK_MASTER mode. -/
def effectiveBclk (b : Nat) (mstr : Bit) (r w c : Nat) : Nat := if b = 0 ∧ mstr = 1 then r * w * c else b

/-- The bit-clock width of step F6 (rule R136): two truncating divisions, left to right. -/
def bitClockWidth (bclk r c : Nat) : Nat := bclk / r / c

/-- The frame-size and divider check of step F7 and of steps V2 and V3 (rules R137, R140). -/
def findDivider (k : Bit) (fs r : Nat) : Except CmdError (Nat × Nat) :=
  if fs ∈ frameSizes then
    match divLookup k fs r with
    | some nd => .ok nd
    | none => .error .noDividerRow
  else .error .frameSize

/-- Step F9 (rule R139): the DSD speed code, or 0 without DSD. -/
def dsdSpeed (dsd : Bit) (r : Nat) : Except CmdError Bit :=
  if dsd = 1 then if r = 176400 then .ok 0 else if r = 352800 then .ok 1 else .error .dsdRate
  else .ok 0

/-- The operands of `FMT` (rule R129). -/
structure FmtOperands where
  width : Nat
  chans : Nat
  dsd : Bit
  rate : Nat
  ffmt : BitVec 3
  mstr : Bit
  bclk : Nat
  ref : Bit
  port : Port
deriving DecidableEq, Repr

/-- Steps F1 to F10 of `FMT` (rules R129 to R139): the first check that fails gives the error. -/
def fmtResult (o : FmtOperands) : Except CmdError LookupResult :=
  match widthCode o.width with
  | none => .error .unsupWidth
  | some wcode =>
  match frameFormat o.ffmt with
  | none => .error .unsupFfmt
  | some f =>
  match rateCode o.rate with
  | none => .error .rateNotInTable
  | some rcode =>
  if o.chans = 0 then .error .frameSize
  else
  let bclk := effectiveBclk o.bclk o.mstr o.rate o.width o.chans
  if bclk = 0 then .error .clkNotCfg
  else
  let bcw := bitClockWidth bclk o.rate o.chans
  if bcw < o.width then .error .insuffClk
  else
  let fs := bcw * o.chans
  match findDivider o.ref fs o.rate with
  | .error e => .error e
  | .ok (num, den) =>
  let (hi, dly, ph) := timing f bcw
  match dsdSpeed o.dsd o.rate with
  | .error e => .error e
  | .ok spd =>
  .ok
    { num := BitVec.ofNat 16 num
      den := BitVec.ofNat 16 den
      bclk := BitVec.ofNat 32 bclk
      frm :=
        { frame := BitVec.ofNat 7 fs
          hitime := BitVec.ofNat 7 hi
          delay := dly
          phase := ph
          rcode := rcode
          wcode := wcode
          dsdSpeed := spd
          dsdSrc := if o.dsd = 1 then portBit o.port else 0
          dsd := o.dsd
          valid := true } }

/-- Steps V1 to V4 of `DIVL` (rule R140). -/
def divlResult (bcw chans rate : Nat) (k : Bit) : Except CmdError LookupResult :=
  match rateCode rate with
  | none => .error .rateNotInTable
  | some rcode =>
  let fs := bcw * chans
  match findDivider k fs rate with
  | .error e => .error e
  | .ok (num, den) =>
  .ok
    { num := BitVec.ofNat 16 num
      den := BitVec.ofNat 16 den
      bclk := 0
      frm := { FrameResult.zero with frame := BitVec.ofNat 7 fs, rcode := rcode, valid := true } }

/-- Write the result registers of a port (rules R22, R130). -/
def State.writeResults (s : State) (p : Port) (r : LookupResult) : State :=
  s.setPort p { s.port p with num := r.num, den := r.den, frm := r.frm, resBclk := r.bclk }

/-- The end of `FMT` and `DIVL` (rules R22, R130, R170): the results and `done`, or zeroed results and
`raise`. -/
def endLookup (p : Port) (s : State) : Except CmdError LookupResult → State
  | .ok r => (s.writeResults p r).finish .fu p
  | .error e => (s.zeroResults p).raiseError .fu p e

/-- The operands of a `FMT` of port `p` (rules R128, R129). -/
def fmtOperands (width : BitVec 6) (chans : BitVec 4) (dsd : Bit) (p : Port) (s : State) : FmtOperands :=
  { width := width.toNat, chans := chans.toNat, dsd := dsd, rate := s.rate p, ffmt := (s.port p).ffmt,
    mstr := (s.port p).mstr, bclk := (s.port p).ifbclk.toNat, ref := s.clk.refSel, port := p }

/-- `FMT` (rule R129). -/
def execFmt (width : BitVec 6) (chans : BitVec 4) (dsd : Bit) (s : State) : Result :=
  let p := s.execPort
  answer (.ok (endLookup p s (fmtResult (fmtOperands width chans dsd p s))))

/-- `DIVL` (rule R140). -/
def execDivl (bcw : BitVec 6) (chans : BitVec 4) (refx ref : Bit) (s : State) : Result :=
  let p := s.execPort
  answer (.ok (endLookup p s (divlResult bcw.toNat chans.toNat (s.rate p) (divlReference refx ref s.clk.refSel))))

end Sys2Proof.Machine
end

