-- ==== Sys2Proof/Machine/Power.lean ====
section
/-! DEFINITION. The power sequencer (rules R150 to R158): the power-down and power-up sequences and the
commands `PDN` and `PUP`. A meaning takes one labelled step (rule R8). -/

namespace Sys2Proof.Machine

/-- The start of a sequence (rule R151). -/
def State.psqStart (s : State) (owner : PsqOwner) (l : PsqLabel) : State :=
  let t :=
    match owner with
    | .port p => s.setPort p { s.port p with pend := .psqRun }
    | .arb => s
    | .none => s
  { t with psq := { t.psq with seq := l, owner := owner } }

/-- The start for a port (rule R151): enabled while its command waits. -/
def State.psqStartPort (s : State) (p : Port) (l : PsqLabel) : State :=
  if (s.port p).pend = .psqWait then s.psqStart (.port p) l else s

/-- The end of a sequence (rule R151), part of its last step: `done` for a port, the release of step L2 of
`REL` for the arbiter. -/
def State.psqEnd (s : State) : Except Fault State :=
  let t := { s with psq := { s.psq with seq := .idle, owner := .none } }
  match s.psq.owner with
  | .port p => .ok (t.finish .psq p)
  | .arb => .ok { t with psq := { t.psq with arbReleased := true } }
  | .none => .error .ownerless

/-- One step of the power-down sequence (rule R153). -/
def State.powerDownStep (s : State) : Except Fault State :=
  match s.psq.seq with
  | .D1 => .ok ((s.rsUpdate .MUTE 1).psqGoto .D2)
  | .D2 => .ok ((s.rsUpdate .PDN_DONE_INH 1).psqGoto .D3)
  | .D3 => .ok ((s.rsUpdate .PDN_OUT 1).psqGoto .D4)
  | .D4 => .ok ((s.psqWait .T_PDN_SETTLE).psqGoto .D5)
  | .D5 => .ok ((s.rsUpdate .PDN_PATH 1).psqGoto .D6)
  | .D6 => (s.rsUpdate .PDN_DONE_INH 0).psqEnd
  | _ => .error .strayPsqLabel

/-- One step of the power-up sequence (rule R156). -/
def State.powerUpStep (s : State) : Except Fault State :=
  match s.psq.seq with
  | .U1 => .ok ((s.rsUpdate .ASP_3ST 0).psqGoto .U2)
  | .U2 => .ok (((s.rsUpdate .SCRATCH_A Config.kA).rsUpdate .SCRATCH_B Config.kB).psqGoto .U3)
  | .U3 => .ok (((s.rsUpdate .PDN_PATH 0).rsUpdate .PDN_OUT 0).psqGoto .U4)
  | .U4 => .ok ((s.psqWait .T_DAC_STARTUP).psqGoto .U5)
  | .U5 => ((s.rsUpdate .SCRATCH_A 0).rsUpdate .SCRATCH_B 0).psqEnd
  | _ => .error .strayPsqLabel

/-- One move of the sequencer: nothing inside a settle wait (rule R180), the start when it is idle, else
the step its register names. -/
def psqCommand (start : State) (next : Except Fault State) (s : State) : Result :=
  answer (if s.psqReady then if s.psq.seq = .idle then .ok start else next else .ok s)

/-- `PDN` (rules R152, R153). -/
def execPdn (s : State) : Result := psqCommand (s.psqStartPort s.execPort .D1) s.powerDownStep s

/-- `PUP` (rules R155, R156). -/
def execPup (s : State) : Result := psqCommand (s.psqStartPort s.execPort .U1) s.powerUpStep s

end Sys2Proof.Machine
end

