-- ==== Sys2Proof/Machine/Arbiter.lean ====
section
/-! DEFINITION. The clock-source arbiter (rules R80 to R114): `CFG`, `ACQ`, `REL`, `SWS` and the source
switch they share. A meaning takes one labelled step (rule R8). -/

namespace Sys2Proof.Machine

/-- The start of an arbiter command (rule R81): enabled when the lock is free and the port's command
waits. -/
def State.arbStart (s : State) (p : Port) (l : ArbLabel) : State :=
  if s.clk.lock = .free ∧ (s.port p).pend = .arbWait then
    let t := s.setPort p { s.port p with pend := .arbRun }
    { t with clk := { t.clk with lock := .held p }, arb := { t.arb with seq := l } }
  else s

/-- The choice of reference of step A1 (rule R91): the first candidate the rate divides. -/
def pickReference (r : Nat) : Option Bit :=
  if r = 0 then none
  else if refHz 0 % r = 0 then some 0
  else if refHz 1 % r = 0 then some 1
  else none

/-- The call of the source switch (rule R99). -/
def State.callSwitch (s : State) (tgt : BitVec 2) (ret : ReturnLabel) : State :=
  { s with arb := { s.arb with tgt := tgt, ret := ret, seq := .S0 } }

/-- `goto arb_ret` (rule R99). -/
def State.switchReturn (s : State) : State :=
  s.arbGoto (match s.arb.ret with
    | .A5 => .A5
    | .L5 => .L5
    | .W1 => .W1)

/-- The last step of a successful switch (rules R104, R108, R111): `clk_src` takes the source. -/
def State.commitSource (s : State) (c : ClkSrc) : State :=
  ({ s with clk := { s.clk with clkSrc := c } }).switchReturn

/-- `goto (tgt == EXTERNAL ? E6 : P6)` (rules R101, R103). -/
def State.gotoTail (s : State) : State := s.arbGoto (if s.arb.tgt = 0 then .E6 else .P6)

/-- `RS.update(MCLK_SRC_SEL, src); RS.update(MCLK_INT, ref)`, as steps E6, P8 and O1 do. -/
def State.programMux (s : State) (src : BitVec 2) (ref : Bit) : State :=
  (s.rsUpdate .MCLK_SRC_SEL (src.setWidth 8)).rsUpdate .MCLK_INT (ref.setWidth 8)

/-- Step X4 (rule R103): the latch ends the wait; the timeout ends it once 100 ms have passed without; else
the engine waits. That the wait lasts no longer is for `State.timeStep` to hold (rule R180). -/
def State.xtalWait (s : State) : State :=
  if s.xtalRdyLatch then ({ s with arb := { s.arb with got := true } }).arbGoto .X5
  else if xtalTimeout ≤ s.now - s.arb.wt then ({ s with arb := { s.arb with got := false } }).arbGoto .X5
  else s

/-- One step of the source switch (rules R100 to R104, R108, R111), for the command of port `p`. -/
def State.switchStep (s : State) (p : Port) : Except Fault State :=
  match s.arb.seq with
  | .S0 => .ok (if s.arb.tgt = sourceCode s.clk.clkSrc then s.switchReturn else s.arbGoto .S1)
  | .S1 =>
    .ok (if s.arb.tgt = 3 then s.raiseError .arb p .invalidSource
      else s.arbGoto (if s.arb.tgt = 2 then .O1 else .X1))
  | .X1 => .ok (if s.clk.xtalBias = 0 then (s.rsUpdate .XTAL_PDN 1).gotoTail else s.arbGoto .X2)
  | .X2 => .ok ((({ s with xtalRdyLatch := false }).rsUpdate .XTAL_PDN 0).arbGoto .X3)
  | .X3 =>
    let t := s.rsUpdate .XTAL_RDY_IE 1
    .ok (({ t with arb := { t.arb with wt := t.now } }).arbGoto .X4)
  | .X4 => .ok s.xtalWait
  | .X5 =>
    let t := s.rsUpdate .XTAL_RDY_IE 0
    .ok (if s.arb.got then t.gotoTail else t.raiseError .arb p .xtalNotReady)
  | .E6 => .ok ((s.programMux 0 s.clk.refSel).arbGoto .E7)
  | .E7 => .ok ((s.arbWait .T_SRC_SETTLE).arbGoto .E8)
  | .E8 => .ok ((s.rsUpdate .PLL_PDN 1).arbGoto .E9)
  | .E9 => .ok (s.commitSource .external)
  | .P6 => .ok ((s.rsUpdate .PLL_PDN 0).arbGoto .P7)
  | .P7 => .ok ((s.arbWait .T_SRC_SETTLE).arbGoto .P8)
  | .P8 => .ok ((s.programMux 1 s.clk.refSel).arbGoto .P9)
  | .P9 => .ok ((s.arbWait .T_SRC_SETTLE).arbGoto .P10)
  | .P10 => .ok (s.commitSource .pll)
  | .O1 => .ok ((s.programMux 2 0).arbGoto .O2)
  | .O2 => .ok ((s.arbWait .T_SRC_SETTLE).arbGoto .O3)
  | .O3 => .ok (((s.rsUpdate .XTAL_PDN 1).rsUpdate .PLL_PDN 1).arbGoto .O4)
  | .O4 => .ok (s.commitSource .ringOscillator)
  | _ => .error .strayArbLabel

/-- One step of `CFG` (rule R86). -/
def State.cfgStep (s : State) (bias : BitVec 2) (bypass : Bit) (p : Port) : Except Fault State :=
  match s.arb.seq with
  | .C0 => .ok (if s.clk.reqCnt ≠ 0 then s.raiseError .arb p .cfgInUse else s.arbGoto .C1)
  | .C1 => .ok (({ s with clk := { s.clk with pllBypass := bypass, xtalBias := bias } }).finish .arb p)
  | _ => .error .strayArbLabel

/-- One step of `ACQ` (rules R88 to R95). -/
def State.acqStep (s : State) (p : Port) : Except Fault State :=
  match s.arb.seq with
  | .A0 => .ok (s.arbGoto (if s.clk.reqCnt ≠ 0 then .A6 else .A1))
  | .A1 =>
    match pickReference (s.rate p) with
    | none => .ok (s.raiseError .arb p .noReference)
    | some k => .ok (({ s with clk := { s.clk with refSel := k } }).arbGoto .A2)
  | .A2 => .ok ((s.boardSelect s.clk.refSel).arbGoto .A3)
  | .A3 => .ok ((s.arbWait .T_REFSEL).arbGoto .A4)
  | .A4 => .ok (s.callSwitch (if s.clk.pllBypass = 1 then 0 else 1) .A5)
  | .A5 => .ok (s.arbGoto .A6)
  | .A6 =>
    .ok (if s.clk.reqCnt = cntMax then s.raiseError .arb p .countOverflow
      else ({ s with clk := { s.clk with reqCnt := s.clk.reqCnt + 1 } }).arbGoto .A7)
  | .A7 => .ok (s.finish .arb p)
  | _ => s.switchStep p

/-- Step L2 of `REL` (rules R54, R97): ask for the sequencer; hold until it has run the power-down for the
arbiter; take the request back (DEDUCED, log 7). -/
def State.relHold (s : State) : State :=
  if s.psq.reqArb then
    if s.psq.arbReleased then
      ({ s with psq := { s.psq with reqArb := false, arbReleased := false } }).arbGoto .L3
    else s
  else { s with psq := { s.psq with reqArb := true } }

/-- One step of `REL` on the arbiter (rule R97). -/
def State.relStep (s : State) (p : Port) : Except Fault State :=
  match s.arb.seq with
  | .L0 => .ok (if s.clk.reqCnt = 0 then s.raiseError .arb p .countUnderflow else s.arbGoto .L1)
  | .L1 =>
    .ok (if 1 < s.clk.reqCnt.toNat then
        ({ s with clk := { s.clk with reqCnt := s.clk.reqCnt - 1 } }).finish .arb p
      else s.arbGoto .L2)
  | .L2 => .ok s.relHold
  | .L3 => .ok (({ s with clk := { s.clk with reqCnt := 0 } }).arbGoto .L4)
  | .L4 => .ok (s.callSwitch 2 .L5)
  | .L5 => .ok (s.finish .arb p)
  | _ => s.switchStep p

/-- One step of `SWS` (rule R98). -/
def State.swsStep (s : State) (tgt : BitVec 2) (p : Port) : Except Fault State :=
  match s.arb.seq with
  | .W0 => .ok (s.callSwitch tgt .W1)
  | .W1 => .ok (s.finish .arb p)
  | _ => s.switchStep p

/-- One move of the arbiter: nothing inside a settle wait (rule R180), the start when it is idle (rule R81),
else the step its register names. -/
def arbCommand (first : ArbLabel) (next : Except Fault State) (s : State) : Result :=
  answer (if s.arbReady then
      if s.arb.seq = .idle then .ok (s.arbStart s.execPort first) else next
    else .ok s)

/-- `CFG` (rules R85, R86). -/
def execCfg (bias : BitVec 2) (bypass : Bit) (s : State) : Result :=
  arbCommand .C0 (s.cfgStep bias bypass s.execPort) s

/-- `ACQ` (rule R88). -/
def execAcq (s : State) : Result := arbCommand .A0 (s.acqStep s.execPort) s

/-- The start of the power-down inside `REL` (rules R97, R151): enabled while the arbiter's request is up
and not yet served. -/
def State.psqStartArb (s : State) : State :=
  if s.psq.reqArb ∧ ¬ s.psq.arbReleased then s.psqStart .arb .D1 else s

/-- `REL` (rules R96, R97): the arbiter's steps when the arbiter moves, and when the sequencer moves the
steps of the power-down it runs for this command. -/
def execRel (s : State) : Result :=
  match s.move with
  | .psq _ => psqCommand s.psqStartArb s.powerDownStep s
  | _ => arbCommand .L0 (s.relStep s.execPort) s

/-- `SWS` (rule R98). -/
def execSws (tgt : BitVec 2) (s : State) : Result := arbCommand .W0 (s.swsStep tgt s.execPort) s

end Sys2Proof.Machine
end

