-- ==== Sys2Proof/Machine/Dispatch.lean ====
section
/-! DEFINITION. One arm per command (rule R62). -/

namespace Sys2Proof.Machine

def exec (i : Instr) (s : State) : Host.Outcome State Fault Refusal :=
  match i with
  | .nop => Sys2Proof.Machine.execNop s
  | .acq => Sys2Proof.Machine.execAcq s
  | .rel => Sys2Proof.Machine.execRel s
  | .sws tgt => Sys2Proof.Machine.execSws tgt s
  | .pdn => Sys2Proof.Machine.execPdn s
  | .pup => Sys2Proof.Machine.execPup s
  | .sfmt ffmt mstr => Sys2Proof.Machine.execSfmt ffmt mstr s
  | .sclk => Sys2Proof.Machine.execSclk s
  | .fmt width chans dsd => Sys2Proof.Machine.execFmt width chans dsd s
  | .divl bcw chans refx ref => Sys2Proof.Machine.execDivl bcw chans refx ref s
  | .cfg bias bypass => Sys2Proof.Machine.execCfg bias bypass s

end Sys2Proof.Machine
end

