-- ==== Sys2Proof/Machine/Schedule.lean ====
section
/-! DEFINITION. Which command the agent that moves now executes, and how an instruction is placed where the
next step runs it. The block fetches nothing (rule R56): a command is the word latched at its issue. -/

namespace Sys2Proof.Machine

/-- What the move of an engine amounts to. -/
inductive Due where
  /-- No command of the engine is enabled: the move changes nothing. -/
  | idle
  /-- The engine executes the command of `State.execPort`. -/
  | run
  /-- The engine is between two steps and nobody holds it. -/
  | ownerless
deriving DecidableEq, Repr

/-- The move of a format unit (rule R120). -/
def State.dueFu (s : State) (p : Port) : Due := if (s.port p).pend = .fu then .run else .idle

/-- The move of the arbiter offered port `p` (rules R52, R81). -/
def State.dueArb (s : State) (p : Port) : Due :=
  match s.clk.lock with
  | .held _ => .run
  | .free =>
    if s.arb.seq = .idle then if (s.port p).pend = .arbWait then .run else .idle else .ownerless

/-- The sequencer runs or starts a sequence for the arbiter: on behalf of the port holding the lock. -/
def State.duePsqForArb (s : State) : Due :=
  match s.clk.lock with
  | .held _ => .run
  | .free => .ownerless

/-- The move of the sequencer offered requester `r` (rules R52, R151). -/
def State.duePsq (s : State) (r : Requester) : Due :=
  match s.psq.owner with
  | .port _ => .run
  | .arb => s.duePsqForArb
  | .none =>
    if s.psq.seq = .idle then
      match r with
      | .port p => if (s.port p).pend = .psqWait then .run else .idle
      | .arb => if s.psq.reqArb ∧ ¬ s.psq.arbReleased then s.duePsqForArb else .idle
    else .ownerless

/-- The word of the command of a port: the latch written at its issue (rules R25, R56). -/
def State.commandWord (s : State) (p : Port) : Word := (s.port p).cmdLatch

/-- The error a rejected word ends with (rule R70). -/
def decodeCmdError : DecodeError → CmdError
  | .illegalOpcode => .illegalOpcode
  | .reservedBits => .reservedBits

/-- The one step of the format unit for an illegal word (rules R70, R71). It leaves the results of the port,
of a malformed `FMT` or `DIVL` too: DEDUCED, log 15. -/
def State.rejectWord (s : State) (p : Port) (e : DecodeError) : State := s.raiseError .fu p (decodeCmdError e)

/-- The move by which the engine of a word on port 0 takes it up. -/
def placeMove (w : Word) : Move :=
  match issuePend w with
  | .arbWait => .arb .p0
  | .psqWait => .psq (.port .p0)
  | _ => .fu .p0

/-- Port 0 has issued `w` (rule R61), whatever it was doing; the engine of the command is idle, and its
move is the next one. -/
def State.placeCommand (s : State) (w : Word) : State :=
  let q := s.port .p0
  let t := (s.setPort .p0 { q with status := { q.status with busy := false } }).issue .p0 w
  let u :=
    match issuePend w with
    | .arbWait => { t with clk := { t.clk with lock := .free }, arb := { t.arb with seq := .idle } }
    | .psqWait => { t with psq := { t.psq with seq := .idle, owner := .none } }
    | _ => t
  { u with sched := placeMove w :: u.sched }

end Sys2Proof.Machine
end

