-- ==== Sys2Proof/Machine/Step.lean ====
section
/-! DEFINITION. One step of the machine: one atomic step (rule R8) of the agent whose move it is. -/

namespace Sys2Proof.Machine

/-- The command of port `p` takes its next step: `exec` of what its word decodes to. -/
def runCommand (p : Port) (s : State) : Result :=
  match decode (s.commandWord p) with
  | .ok i => exec i s
  | .error e => answer (.ok (s.rejectWord p e))

/-- The move of an engine. -/
def runDue (d : Due) (s : State) : Result :=
  match d with
  | .idle => answer (.ok s)
  | .run => runCommand s.execPort s
  | .ownerless => answer (.error .ownerless)

/-- One step (rules R8, R10, R51). -/
def step (s : State) : Host.Outcome State Fault Refusal :=
  match s.move with
  | .host a => answer (.ok (s.hostAccess a))
  | .fu p => runDue (s.dueFu p) s
  | .arb p => runDue (s.dueArb p) s
  | .psq r => runDue (s.duePsq r) s
  | .xtal => answer (.ok s.xtalReady)
  | .time d => answer (.ok (s.passTime d))
  | .rst => answer (.ok s.applyReset)

/-- `s` with the word `w` of `nbits` bits issued on port 0 and its engine's move next, so that the next
step runs it (log 6). -/
def State.withFetchWord (s : State) (nbits w : Nat) : State := s.placeCommand (BitVec.ofNat 32 (w % 2 ^ nbits))

end Sys2Proof.Machine
end

