-- ==== Sys2Proof/Safety.lean ====
section
/-! DEFINITION. What counts as a good state and a good environment: the invariants the rules promise, each
strengthened where needed so that every step keeps it, and the premises the spec lets a claim assume. -/

namespace Sys2Proof.Machine

/-! ### Whose turn it is -/

/-- The move is the arbiter's. -/
def State.arbMoves (s : State) : Bool :=
  match s.move with
  | .arb _ => true
  | _ => false

/-- The move is the sequencer's. -/
def State.psqMoves (s : State) : Bool :=
  match s.move with
  | .psq _ => true
  | _ => false

/-- The arbiter moves and executes the command of port `p`, at label `l` of its listing. -/
abbrev State.ArbTurn (s : State) (p : Port) (l : ArbLabel) : Prop :=
  s.arbMoves = true ∧ s.clk.lock = .held p ∧ s.arb.seq = l

/-- The sequencer moves and is at label `l` of the sequence of `owner`. -/
abbrev State.PsqTurn (s : State) (owner : PsqOwner) (l : PsqLabel) : Prop :=
  s.psqMoves = true ∧ s.psq.owner = owner ∧ s.psq.seq = l

/-- `n` steps, stopping at the first fault. -/
def runFor : Nat → State → Result
  | 0, s => .next s
  | n + 1, s =>
    match step s with
    | .next t => runFor n t
    | .fault f => .fault f
    | .refused r => .refused r

/-! ### Labels and commands -/

/-- The labels of the source switch (rules R80, R99). -/
def switchLabels : List ArbLabel :=
  [.S0, .S1, .X1, .X2, .X3, .X4, .X5, .E6, .E7, .E8, .E9, .P6, .P7, .P8, .P9, .P10, .O1, .O2, .O3, .O4]

/-- The labels of the power-down sequence (rule R153). -/
def downLabels : List PsqLabel := [.D1, .D2, .D3, .D4, .D5, .D6]

/-- The labels of the power-up sequence (rule R156). -/
def upLabels : List PsqLabel := [.U1, .U2, .U3, .U4, .U5]

/-- The commands that run the source switch (rule R80). -/
def switchCaller : Instr → Bool
  | .acq => true
  | .rel => true
  | .sws _ => true
  | _ => false

/-- The step register and the return label of the arbiter belong to the listing of command `i` (rules R86,
R88, R97, R98, R99). -/
def arbLabelOf (i : Instr) (a : ArbState) : Bool :=
  match i with
  | .cfg _ _ => [.C0, .C1].contains a.seq
  | .acq => [.A0, .A1, .A2, .A3, .A4, .A5, .A6, .A7].contains a.seq || switchLabels.contains a.seq && a.ret == .A5
  | .rel => [.L0, .L1, .L2, .L3, .L4, .L5].contains a.seq || switchLabels.contains a.seq && a.ret == .L5
  | .sws _ => [.W0, .W1].contains a.seq || switchLabels.contains a.seq && a.ret == .W1
  | _ => false

/-- The step register of the sequencer belongs to the sequence of command `i` (rules R153, R156). -/
def psqLabelOf (i : Instr) (l : PsqLabel) : Bool :=
  match i with
  | .pdn => downLabels.contains l
  | .pup => upLabels.contains l
  | _ => false

/-- Port `p` has a legal command latched, and it satisfies `f`. -/
def latchedSat (q : PortState) (f : Instr → Bool) : Bool :=
  match decode q.cmdLatch with
  | .ok i => f i
  | .error _ => false

/-! ### The sequencing invariant (rules R13, R14, R20, R25, R53, R54, R81, R82, R151) -/

/-- What holds of one port: `BUSY` says that a command is in flight; a waiting command waits for its own
engine; a running one holds the lock, or owns the sequencer, and the engine is in its listing. -/
structure PortInv (s : State) (p : Port) : Prop where
  busy : (s.port p).status.busy = true ↔ (s.port p).pend ≠ .none
  fu : (s.port p).pend = .fu → issuePend (s.port p).cmdLatch = .fu
  arbWait : (s.port p).pend = .arbWait → issuePend (s.port p).cmdLatch = .arbWait
  psqWait : (s.port p).pend = .psqWait → issuePend (s.port p).cmdLatch = .psqWait
  arbRun : (s.port p).pend = .arbRun ↔ s.clk.lock = .held p
  psqRun : (s.port p).pend = .psqRun ↔ s.psq.owner = .port p
  arbLabel : s.clk.lock = .held p → latchedSat (s.port p) (fun i => arbLabelOf i s.arb) = true
  psqLabel : s.psq.owner = .port p → latchedSat (s.port p) (fun i => psqLabelOf i s.psq.seq) = true

/-- The sequencing invariant. It excludes every fault of the model. -/
structure SeqInv (s : State) : Prop where
  port0 : PortInv s .p0
  port1 : PortInv s .p1
  /-- The arbiter is idle exactly when the lock is free (rules R81, R82). -/
  lockFree : s.clk.lock = .free ↔ s.arb.seq = .idle
  /-- The sequencer is idle exactly when it has no owner (rule R151). -/
  noOwner : s.psq.owner = .none ↔ s.psq.seq = .idle
  /-- A sequence for the arbiter is a power-down, asked for and not yet done (rules R54, R97). -/
  arbOwner : s.psq.owner = .arb → s.psq.reqArb = true ∧ s.psq.arbReleased = false ∧ s.psq.seq ∈ downLabels
  /-- The arbiter's request is up only while `REL` holds at L2 (rule R97). -/
  request : s.psq.reqArb = true → s.arb.seq = .L2
  released : s.psq.arbReleased = true → s.psq.reqArb = true

/-! ### The switch and the count (rules R90, R96, R99, R100) -/

/-- The target of a switch in progress fits its caller and its branch: `REL` switches to the ring
oscillator only, `ACQ` to EXTERNAL or PLL; the labels of a branch are reached with its target only. -/
structure TargetInv (s : State) : Prop where
  rel : s.arb.seq ∈ switchLabels → s.arb.ret = .L5 → s.arb.tgt = 2
  acq : s.arb.seq ∈ switchLabels → s.arb.ret = .A5 → s.arb.tgt = 0 ∨ s.arb.tgt = 1
  crystal : s.arb.seq ∈ [.X1, .X2, .X3, .X4, .X5] → s.arb.tgt = 0 ∨ s.arb.tgt = 1
  external : s.arb.seq ∈ [.E6, .E7, .E8, .E9] → s.arb.tgt = 0
  pll : s.arb.seq ∈ [.P6, .P7, .P8, .P9, .P10] → s.arb.tgt = 1
  ring : s.arb.seq ∈ [.O1, .O2, .O3, .O4] → s.arb.tgt = 2

/-- The count where the listings have tested it: 0 from A1 to the return of the switch, 1 at L2 and L3, 0
after L3, at least 1 at L1. -/
structure CountInv (s : State) : Prop where
  acqZero : s.arb.seq ∈ [.A1, .A2, .A3, .A4, .A5] → s.clk.reqCnt = 0
  acqSwitch : s.arb.seq ∈ switchLabels → s.arb.ret = .A5 → s.clk.reqCnt = 0
  relPos : s.arb.seq = .L1 → s.clk.reqCnt ≠ 0
  relOne : s.arb.seq ∈ [.L2, .L3] → s.clk.reqCnt = 1
  relZero : s.arb.seq ∈ [.L4, .L5] → s.clk.reqCnt = 0
  relSwitch : s.arb.seq ∈ switchLabels → s.arb.ret = .L5 → s.clk.reqCnt = 0

/-! ### The clock invariant (rule R28) -/

/-- No `SWS` is in flight on a port (the premise of rules R28 and R202). -/
def noSws (q : PortState) : Bool :=
  !((q.pend == .arbWait || q.pend == .arbRun) && latchedSat q (fun i => match i with | .sws _ => true | _ => false))

/-- The move issues an `SWS` (rule R61): a word write of an `SWS` to the `CMD` register of an idle port. -/
def State.issuesSws (s : State) : Bool :=
  match s.move with
  | .host (.write size offset v) =>
    match slaveReg size offset, decode v with
    | some (.port p .CMD), .ok (.sws _) => !(s.port p).status.busy
    | _, _ => false
  | _ => false

/-- The count and the clock source agree, rule R28 without its power-down half: when the lock is free, the
count is 0 exactly when the source is the ring oscillator; and what holds of the two at each label of a
command in flight. -/
structure ClockInv (s : State) : Prop where
  noSws0 : noSws s.p0 = true
  noSws1 : noSws s.p1 = true
  agree : s.arb.seq ∈ [.idle, .C0, .C1, .A0, .A7, .L0, .L1, .L2, .L3] →
    (s.clk.reqCnt = 0 ↔ s.clk.clkSrc = .ringOscillator)
  before : s.arb.seq ∈ [.A1, .A2, .A3, .A4] → s.clk.clkSrc = .ringOscillator
  during : s.arb.seq ∈ switchLabels → s.arb.ret = .A5 → s.clk.clkSrc = .ringOscillator
  after : s.arb.seq ∈ [.A5, .A6] → s.clk.clkSrc ≠ .ringOscillator
  releasing : s.arb.seq = .L4 ∨ s.arb.seq ∈ switchLabels ∧ s.arb.ret = .L5 → s.clk.clkSrc ≠ .ringOscillator
  released : s.arb.seq = .L5 → s.clk.clkSrc = .ringOscillator

/-! ### The path invariant (rule R28, power-down half) -/

/-- The path is down (rule R158). -/
def State.pathDown (s : State) : Bool := s.ctl.pdnOut == 1 && s.ctl.pdnPath == 1

/-- A `PUP` is in flight on a port. -/
def pupInFlight (q : PortState) : Bool :=
  (q.pend == .psqWait || q.pend == .psqRun) && latchedSat q (fun i => i == .pup)

/-- The host keeps the ordering of rule R196 for `PUP`: while one is in flight a request is held, and no
release takes the count to 0. -/
def State.pupCovered (s : State) : Prop :=
  (pupInFlight s.p0 = true ∨ pupInFlight s.p1 = true) → s.clk.reqCnt ≠ 0 ∧ s.arb.seq ≠ .L2 ∧ s.arb.seq ≠ .L3

/-- With no request held the path is down; the power-down inside `REL` has done its part at each label. -/
structure PathInv (s : State) : Prop where
  down : s.clk.reqCnt = 0 → s.pathDown = true
  out : s.psq.owner = .arb → s.psq.seq ∈ [.D4, .D5, .D6] → s.ctl.pdnOut = 1
  path : s.psq.owner = .arb → s.psq.seq = .D6 → s.ctl.pdnPath = 1
  held : s.psq.arbReleased = true → s.pathDown = true
  zeroing : s.arb.seq = .L3 → s.pathDown = true

/-! ### Outputs (rules R24, R175) -/

/-- The board selects are mutually exclusive (rule R24) and the crystal-ready interrupt is armed exactly
between X3 and X5 (rule R175). -/
def OutputInv (s : State) : Prop :=
  ¬ (s.sel0 = true ∧ s.sel1 = true) ∧ (s.ctl.xtalRdyIe = 1 ↔ s.arb.seq = .X4 ∨ s.arb.seq = .X5)

/-! ### The register store (rules R43, R44, R45, R192) -/

/-- The chip's fields hold what the block believes: the launch premise of rule R192. -/
def StoreAgrees (s : State) : Prop :=
  ∀ f : CtlField, Memory.read s.store (rsMap f).addr.toNat &&& (rsMap f).mask = fieldBits f (s.ctl.get f)

/-- The premise of rule R44: no control field lies at a precious address. -/
def NoPreciousField : Prop := ∀ f : CtlField, precious (rsMap f).addr = false

/-- The control fields after a list of events, starting from `c`: only `RSUpdate` events change them. -/
def replayCtl (c : Ctl) : List Event → Ctl
  | [] => c
  | .rsUpdate f v :: es => replayCtl (c.set f v) es
  | _ :: es => replayCtl c es

/-- The register store after a list of events (rule R43). -/
def replayStore (m : Memory) : List Event → Memory
  | [] => m
  | .rsUpdate f v :: es => replayStore (Memory.updateBits m (rsMap f).addr.toNat (rsMap f).mask (fieldBits f v)) es
  | _ :: es => replayStore m es

/-! ### Time (rules R179, R180) -/

/-- No wait began in the future, and the crystal-ready wait has lasted at most `T_XTAL_TIMEOUT` (rule R180). -/
def TimeInv (s : State) : Prop :=
  s.arb.wt ≤ s.now ∧ s.psq.wt ≤ s.now ∧ (s.arb.seq = .X4 → s.now - s.arb.wt ≤ xtalTimeout)

/-! ### Runs (rules R51, R52) -/

/-- An infinite run: each state is what a step made of the one before it, but for the schedule, which is the
environment's to choose anew. So every interleaving of rule R51 is a run; what the machine does by itself
is one of them. -/
def IsRun (σ : Nat → State) : Prop :=
  ∀ n, ∃ t, step (σ n) = .next t ∧ σ (n + 1) = { t with sched := (σ (n + 1)).sched }

/-- The move would do something: a step of it is not a move without effect (log 8). -/
def State.enabled (s : State) (m : Move) : Prop :=
  step { s with sched := [m] } ≠ .next (State.advance { s with sched := [m] })

/-- A move of one of the engines. -/
def engineMove (m : Move) : Bool :=
  match m with
  | .fu _ => true
  | .arb _ => true
  | .psq _ => true
  | _ => false

/-- The move grants an idle engine to a waiting requester (rules R52, R81, R151). -/
def State.canGrant (s : State) (m : Move) : Bool :=
  match m with
  | .arb p => s.clk.lock == .free && s.arb.seq == .idle && (s.port p).pend == .arbWait
  | .psq (.port p) => s.psq.owner == .none && s.psq.seq == .idle && (s.port p).pend == .psqWait
  | .psq .arb => s.psq.owner == .none && s.psq.seq == .idle && s.psq.reqArb && !s.psq.arbReleased
  | _ => false

/-- The fairness premise of rules R52 and R180: a step that stays enabled is taken; a requester to whom an
engine could be granted again and again is granted it; time goes on. A claim may assume it and the schedule
does not guarantee it (log 17). -/
structure FairRun (σ : Nat → State) : Prop where
  run : IsRun σ
  /-- Weak fairness: again and again an engine's move is made or has nothing to do. -/
  engine : ∀ m, engineMove m = true → ∀ n, ∃ k ≥ n, (σ k).move = m ∨ ¬ (σ k).enabled m
  /-- No requester is passed over for ever (rule R52). -/
  grant : ∀ m n, (∀ j, ∃ k ≥ j, (σ k).canGrant m = true) → ∃ k ≥ n, (σ k).canGrant m = true ∧ (σ k).move = m
  /-- Every wait ends (rule R180). -/
  time : ∀ d, ∃ k, d ≤ (σ k).now

/-! ### The crystal (rule R177) -/

/-- In the run `σ`, step `i` is X2 of a switch for port `p`, which powers the crystal up from the powered-down
state, and step `j` is X3 of the same switch. -/
structure PowersUp (σ : Nat → State) (p : Port) (i j : Nat) : Prop where
  later : i < j
  powerUp : (σ i).ArbTurn p .X2
  wasDown : (σ i).ctl.xtalPdn = 1
  arm : (σ j).ArbTurn p .X3
  between : ∀ m, i < m → m ≤ j → (σ m).arb.seq = .X3

/-- The premise `XtalStarts` (rule R177): whenever X2 takes `CTL.XTAL_PDN` from 1 to 0, the crystal takes its
step after it and within less than `T_XTAL_TIMEOUT` of X3, unless the block is reset first. It says nothing
for an X2 that finds the crystal powered. A claim may assume it and the block does not guarantee it. -/
def XtalStarts (σ : Nat → State) : Prop :=
  ∀ p i j, PowersUp σ p i j →
    ∃ k > i, (σ k).now < (σ j).now + xtalTimeout ∧
      ((σ k).move = .xtal ∧ (σ k).ctl.xtalPdn = 0 ∨ (σ k).move = .rst)

/-! ### Encodings (rules R60, R63 to R68, R70) -/

/-- The bits of 27:0 that the format of an opcode does not name (rules R63 to R68). -/
def reservedMask (opc : Nat) : Word :=
  match opc with
  | 0x3 => 0x0FFFFFFC
  | 0x6 => 0x0FFFFFF0
  | 0x8 => 0x0FFFF001
  | 0x9 => 0x0FFFF000
  | 0xA => 0x0FFFFFF8
  | _ => 0x0FFFFFFF

/-- A word of a legal opcode is legal (rule R70): no reserved bit is 1, and `DIVL` with `REFX` = 0 has `REF`
= 0. -/
def legalFields (w : Word) : Prop :=
  w &&& reservedMask (w.toNat / 2 ^ 28) = 0 ∧
    ¬ (w.toNat / 2 ^ 28 = 0x9 ∧ w.getLsbD 1 = false ∧ w.getLsbD 0 = true)

/-! ### The rest of the machine -/

/-- Everything but the ports and the event history is as before: the frame of a format unit's step (rule
R120). Every byte of the register store reads as before. -/
def SharedKept (s t : State) : Prop :=
  t.clk = s.clk ∧ t.arb = s.arb ∧ t.psq = s.psq ∧ t.ctl = s.ctl ∧ t.sel0 = s.sel0 ∧ t.sel1 = s.sel1 ∧
    t.xtalRdyLatch = s.xtalRdyLatch ∧ t.now = s.now ∧ t.rdata = s.rdata ∧
    ∀ a, Memory.read t.store a = Memory.read s.store a

/-- The word of a safe run: the state meets the sequencing invariant and lists its store canonically. -/
def Good (s : State) : Prop := SeqInv s ∧ Memory.wf s.store = true

end Sys2Proof.Machine
end

