-- ==== Sys2Proof/Laws/State.lean ====
section
/-! SUPPORT. The small lemmas of the state: for each plain update, what it does to each field. -/

namespace Sys2Proof.Machine

/-! ### `State.advance` -/

@[simp] theorem State.advance_p0 (s : State) : s.advance.p0 = s.p0 := rfl
@[simp] theorem State.advance_p1 (s : State) : s.advance.p1 = s.p1 := rfl
@[simp] theorem State.advance_clk (s : State) : s.advance.clk = s.clk := rfl
@[simp] theorem State.advance_arb (s : State) : s.advance.arb = s.arb := rfl
@[simp] theorem State.advance_psq (s : State) : s.advance.psq = s.psq := rfl
@[simp] theorem State.advance_ctl (s : State) : s.advance.ctl = s.ctl := rfl
@[simp] theorem State.advance_sel0 (s : State) : s.advance.sel0 = s.sel0 := rfl
@[simp] theorem State.advance_sel1 (s : State) : s.advance.sel1 = s.sel1 := rfl
@[simp] theorem State.advance_xtalRdyLatch (s : State) : s.advance.xtalRdyLatch = s.xtalRdyLatch := rfl
@[simp] theorem State.advance_store (s : State) : s.advance.store = s.store := rfl
@[simp] theorem State.advance_now (s : State) : s.advance.now = s.now := rfl
@[simp] theorem State.advance_events (s : State) : s.advance.events = s.events := rfl
@[simp] theorem State.advance_rdata (s : State) : s.advance.rdata = s.rdata := rfl
@[simp] theorem State.advance_sched (s : State) : s.advance.sched = s.sched.tail := rfl
@[simp] theorem State.advance_tick (s : State) : s.advance.tick = s.tick + 1 := rfl
@[simp] theorem State.advance_port (s : State) (p : Port) : s.advance.port p = s.port p := by
  cases p <;> rfl

/-! ### `State.log` -/

@[simp] theorem State.log_p0 (s : State) (e : Event) : (s.log e).p0 = s.p0 := rfl
@[simp] theorem State.log_p1 (s : State) (e : Event) : (s.log e).p1 = s.p1 := rfl
@[simp] theorem State.log_clk (s : State) (e : Event) : (s.log e).clk = s.clk := rfl
@[simp] theorem State.log_arb (s : State) (e : Event) : (s.log e).arb = s.arb := rfl
@[simp] theorem State.log_psq (s : State) (e : Event) : (s.log e).psq = s.psq := rfl
@[simp] theorem State.log_ctl (s : State) (e : Event) : (s.log e).ctl = s.ctl := rfl
@[simp] theorem State.log_sel0 (s : State) (e : Event) : (s.log e).sel0 = s.sel0 := rfl
@[simp] theorem State.log_sel1 (s : State) (e : Event) : (s.log e).sel1 = s.sel1 := rfl
@[simp] theorem State.log_xtalRdyLatch (s : State) (e : Event) : (s.log e).xtalRdyLatch = s.xtalRdyLatch := rfl
@[simp] theorem State.log_store (s : State) (e : Event) : (s.log e).store = s.store := rfl
@[simp] theorem State.log_now (s : State) (e : Event) : (s.log e).now = s.now := rfl
@[simp] theorem State.log_events (s : State) (e : Event) : (s.log e).events = s.events ++ [e] := rfl
@[simp] theorem State.log_rdata (s : State) (e : Event) : (s.log e).rdata = s.rdata := rfl
@[simp] theorem State.log_sched (s : State) (e : Event) : (s.log e).sched = s.sched := rfl
@[simp] theorem State.log_tick (s : State) (e : Event) : (s.log e).tick = s.tick := rfl
@[simp] theorem State.log_port (s : State) (e : Event) (p : Port) : (s.log e).port p = s.port p := by
  cases p <;> rfl
@[simp] theorem State.log_move (s : State) (e : Event) : (s.log e).move = s.move := rfl

/-! ### `State.rsUpdate` -/

@[simp] theorem State.rsUpdate_p0 (s : State) (f : CtlField) (v : Byte) : (s.rsUpdate f v).p0 = s.p0 := rfl
@[simp] theorem State.rsUpdate_p1 (s : State) (f : CtlField) (v : Byte) : (s.rsUpdate f v).p1 = s.p1 := rfl
@[simp] theorem State.rsUpdate_clk (s : State) (f : CtlField) (v : Byte) : (s.rsUpdate f v).clk = s.clk := rfl
@[simp] theorem State.rsUpdate_arb (s : State) (f : CtlField) (v : Byte) : (s.rsUpdate f v).arb = s.arb := rfl
@[simp] theorem State.rsUpdate_psq (s : State) (f : CtlField) (v : Byte) : (s.rsUpdate f v).psq = s.psq := rfl
@[simp] theorem State.rsUpdate_ctl (s : State) (f : CtlField) (v : Byte) : (s.rsUpdate f v).ctl = s.ctl.set f v := rfl
@[simp] theorem State.rsUpdate_sel0 (s : State) (f : CtlField) (v : Byte) : (s.rsUpdate f v).sel0 = s.sel0 := rfl
@[simp] theorem State.rsUpdate_sel1 (s : State) (f : CtlField) (v : Byte) : (s.rsUpdate f v).sel1 = s.sel1 := rfl
@[simp] theorem State.rsUpdate_xtalRdyLatch (s : State) (f : CtlField) (v : Byte) : (s.rsUpdate f v).xtalRdyLatch = s.xtalRdyLatch := rfl
@[simp] theorem State.rsUpdate_store (s : State) (f : CtlField) (v : Byte) : (s.rsUpdate f v).store = Memory.updateBits s.store (rsMap f).addr.toNat (rsMap f).mask (fieldBits f v) := rfl
@[simp] theorem State.rsUpdate_now (s : State) (f : CtlField) (v : Byte) : (s.rsUpdate f v).now = s.now := rfl
@[simp] theorem State.rsUpdate_events (s : State) (f : CtlField) (v : Byte) : (s.rsUpdate f v).events = s.events ++ [.rsUpdate f v] := rfl
@[simp] theorem State.rsUpdate_rdata (s : State) (f : CtlField) (v : Byte) : (s.rsUpdate f v).rdata = s.rdata := rfl
@[simp] theorem State.rsUpdate_sched (s : State) (f : CtlField) (v : Byte) : (s.rsUpdate f v).sched = s.sched := rfl
@[simp] theorem State.rsUpdate_tick (s : State) (f : CtlField) (v : Byte) : (s.rsUpdate f v).tick = s.tick := rfl
@[simp] theorem State.rsUpdate_port (s : State) (f : CtlField) (v : Byte) (p : Port) : (s.rsUpdate f v).port p = s.port p := by
  cases p <;> rfl
@[simp] theorem State.rsUpdate_move (s : State) (f : CtlField) (v : Byte) : (s.rsUpdate f v).move = s.move := rfl

/-! ### `State.boardSelect` -/

@[simp] theorem State.boardSelect_p0 (s : State) (k : Bit) : (s.boardSelect k).p0 = s.p0 := rfl
@[simp] theorem State.boardSelect_p1 (s : State) (k : Bit) : (s.boardSelect k).p1 = s.p1 := rfl
@[simp] theorem State.boardSelect_clk (s : State) (k : Bit) : (s.boardSelect k).clk = s.clk := rfl
@[simp] theorem State.boardSelect_arb (s : State) (k : Bit) : (s.boardSelect k).arb = s.arb := rfl
@[simp] theorem State.boardSelect_psq (s : State) (k : Bit) : (s.boardSelect k).psq = s.psq := rfl
@[simp] theorem State.boardSelect_ctl (s : State) (k : Bit) : (s.boardSelect k).ctl = s.ctl := rfl
@[simp] theorem State.boardSelect_sel0 (s : State) (k : Bit) : (s.boardSelect k).sel0 = (k == 0) := rfl
@[simp] theorem State.boardSelect_sel1 (s : State) (k : Bit) : (s.boardSelect k).sel1 = (k == 1) := rfl
@[simp] theorem State.boardSelect_xtalRdyLatch (s : State) (k : Bit) : (s.boardSelect k).xtalRdyLatch = s.xtalRdyLatch := rfl
@[simp] theorem State.boardSelect_store (s : State) (k : Bit) : (s.boardSelect k).store = s.store := rfl
@[simp] theorem State.boardSelect_now (s : State) (k : Bit) : (s.boardSelect k).now = s.now := rfl
@[simp] theorem State.boardSelect_events (s : State) (k : Bit) : (s.boardSelect k).events = s.events ++ [.boardSel k] := rfl
@[simp] theorem State.boardSelect_rdata (s : State) (k : Bit) : (s.boardSelect k).rdata = s.rdata := rfl
@[simp] theorem State.boardSelect_sched (s : State) (k : Bit) : (s.boardSelect k).sched = s.sched := rfl
@[simp] theorem State.boardSelect_tick (s : State) (k : Bit) : (s.boardSelect k).tick = s.tick := rfl
@[simp] theorem State.boardSelect_port (s : State) (k : Bit) (p : Port) : (s.boardSelect k).port p = s.port p := by
  cases p <;> rfl
@[simp] theorem State.boardSelect_move (s : State) (k : Bit) : (s.boardSelect k).move = s.move := rfl

/-! ### `State.passTime` -/

@[simp] theorem State.passTime_p0 (s : State) (d : Nat) : (s.passTime d).p0 = s.p0 := rfl
@[simp] theorem State.passTime_p1 (s : State) (d : Nat) : (s.passTime d).p1 = s.p1 := rfl
@[simp] theorem State.passTime_clk (s : State) (d : Nat) : (s.passTime d).clk = s.clk := rfl
@[simp] theorem State.passTime_arb (s : State) (d : Nat) : (s.passTime d).arb = s.arb := rfl
@[simp] theorem State.passTime_psq (s : State) (d : Nat) : (s.passTime d).psq = s.psq := rfl
@[simp] theorem State.passTime_ctl (s : State) (d : Nat) : (s.passTime d).ctl = s.ctl := rfl
@[simp] theorem State.passTime_sel0 (s : State) (d : Nat) : (s.passTime d).sel0 = s.sel0 := rfl
@[simp] theorem State.passTime_sel1 (s : State) (d : Nat) : (s.passTime d).sel1 = s.sel1 := rfl
@[simp] theorem State.passTime_xtalRdyLatch (s : State) (d : Nat) : (s.passTime d).xtalRdyLatch = s.xtalRdyLatch := rfl
@[simp] theorem State.passTime_store (s : State) (d : Nat) : (s.passTime d).store = s.store := rfl
@[simp] theorem State.passTime_now (s : State) (d : Nat) : (s.passTime d).now = s.now + s.timeStep d := rfl
@[simp] theorem State.passTime_events (s : State) (d : Nat) : (s.passTime d).events = s.events := rfl
@[simp] theorem State.passTime_rdata (s : State) (d : Nat) : (s.passTime d).rdata = s.rdata := rfl
@[simp] theorem State.passTime_sched (s : State) (d : Nat) : (s.passTime d).sched = s.sched := rfl
@[simp] theorem State.passTime_tick (s : State) (d : Nat) : (s.passTime d).tick = s.tick := rfl
@[simp] theorem State.passTime_port (s : State) (d : Nat) (p : Port) : (s.passTime d).port p = s.port p := by
  cases p <;> rfl
@[simp] theorem State.passTime_move (s : State) (d : Nat) : (s.passTime d).move = s.move := rfl

/-- Outside the crystal-ready wait all the time passes. -/
theorem State.timeStep_of_ne {s : State} (h : s.arb.seq ≠ .X4) (d : Nat) : s.timeStep d = d := if_neg h

/-- In it, no more than is left of its 100 ms (rule R180). -/
theorem State.timeStep_of_eq {s : State} (h : s.arb.seq = .X4) (d : Nat) :
    s.timeStep d = min d (s.arb.wt + xtalTimeout - s.now) := if_pos h

/-! ### `State.arbWait` -/

@[simp] theorem State.arbWait_p0 (s : State) (w : WaitName) : (s.arbWait w).p0 = s.p0 := rfl
@[simp] theorem State.arbWait_p1 (s : State) (w : WaitName) : (s.arbWait w).p1 = s.p1 := rfl
@[simp] theorem State.arbWait_clk (s : State) (w : WaitName) : (s.arbWait w).clk = s.clk := rfl
@[simp] theorem State.arbWait_arb (s : State) (w : WaitName) : (s.arbWait w).arb = { s.arb with wt := s.now } := rfl
@[simp] theorem State.arbWait_psq (s : State) (w : WaitName) : (s.arbWait w).psq = s.psq := rfl
@[simp] theorem State.arbWait_ctl (s : State) (w : WaitName) : (s.arbWait w).ctl = s.ctl := rfl
@[simp] theorem State.arbWait_sel0 (s : State) (w : WaitName) : (s.arbWait w).sel0 = s.sel0 := rfl
@[simp] theorem State.arbWait_sel1 (s : State) (w : WaitName) : (s.arbWait w).sel1 = s.sel1 := rfl
@[simp] theorem State.arbWait_xtalRdyLatch (s : State) (w : WaitName) : (s.arbWait w).xtalRdyLatch = s.xtalRdyLatch := rfl
@[simp] theorem State.arbWait_store (s : State) (w : WaitName) : (s.arbWait w).store = s.store := rfl
@[simp] theorem State.arbWait_now (s : State) (w : WaitName) : (s.arbWait w).now = s.now := rfl
@[simp] theorem State.arbWait_events (s : State) (w : WaitName) : (s.arbWait w).events = s.events ++ [.wait w] := rfl
@[simp] theorem State.arbWait_rdata (s : State) (w : WaitName) : (s.arbWait w).rdata = s.rdata := rfl
@[simp] theorem State.arbWait_sched (s : State) (w : WaitName) : (s.arbWait w).sched = s.sched := rfl
@[simp] theorem State.arbWait_tick (s : State) (w : WaitName) : (s.arbWait w).tick = s.tick := rfl
@[simp] theorem State.arbWait_port (s : State) (w : WaitName) (p : Port) : (s.arbWait w).port p = s.port p := by
  cases p <;> rfl
@[simp] theorem State.arbWait_move (s : State) (w : WaitName) : (s.arbWait w).move = s.move := rfl

/-! ### `State.psqWait` -/

@[simp] theorem State.psqWait_p0 (s : State) (w : WaitName) : (s.psqWait w).p0 = s.p0 := rfl
@[simp] theorem State.psqWait_p1 (s : State) (w : WaitName) : (s.psqWait w).p1 = s.p1 := rfl
@[simp] theorem State.psqWait_clk (s : State) (w : WaitName) : (s.psqWait w).clk = s.clk := rfl
@[simp] theorem State.psqWait_arb (s : State) (w : WaitName) : (s.psqWait w).arb = s.arb := rfl
@[simp] theorem State.psqWait_psq (s : State) (w : WaitName) : (s.psqWait w).psq = { s.psq with wt := s.now } := rfl
@[simp] theorem State.psqWait_ctl (s : State) (w : WaitName) : (s.psqWait w).ctl = s.ctl := rfl
@[simp] theorem State.psqWait_sel0 (s : State) (w : WaitName) : (s.psqWait w).sel0 = s.sel0 := rfl
@[simp] theorem State.psqWait_sel1 (s : State) (w : WaitName) : (s.psqWait w).sel1 = s.sel1 := rfl
@[simp] theorem State.psqWait_xtalRdyLatch (s : State) (w : WaitName) : (s.psqWait w).xtalRdyLatch = s.xtalRdyLatch := rfl
@[simp] theorem State.psqWait_store (s : State) (w : WaitName) : (s.psqWait w).store = s.store := rfl
@[simp] theorem State.psqWait_now (s : State) (w : WaitName) : (s.psqWait w).now = s.now := rfl
@[simp] theorem State.psqWait_events (s : State) (w : WaitName) : (s.psqWait w).events = s.events ++ [.wait w] := rfl
@[simp] theorem State.psqWait_rdata (s : State) (w : WaitName) : (s.psqWait w).rdata = s.rdata := rfl
@[simp] theorem State.psqWait_sched (s : State) (w : WaitName) : (s.psqWait w).sched = s.sched := rfl
@[simp] theorem State.psqWait_tick (s : State) (w : WaitName) : (s.psqWait w).tick = s.tick := rfl
@[simp] theorem State.psqWait_port (s : State) (w : WaitName) (p : Port) : (s.psqWait w).port p = s.port p := by
  cases p <;> rfl
@[simp] theorem State.psqWait_move (s : State) (w : WaitName) : (s.psqWait w).move = s.move := rfl

/-! ### `State.arbGoto` -/

@[simp] theorem State.arbGoto_p0 (s : State) (l : ArbLabel) : (s.arbGoto l).p0 = s.p0 := rfl
@[simp] theorem State.arbGoto_p1 (s : State) (l : ArbLabel) : (s.arbGoto l).p1 = s.p1 := rfl
@[simp] theorem State.arbGoto_clk (s : State) (l : ArbLabel) : (s.arbGoto l).clk = s.clk := rfl
@[simp] theorem State.arbGoto_arb (s : State) (l : ArbLabel) : (s.arbGoto l).arb = { s.arb with seq := l } := rfl
@[simp] theorem State.arbGoto_psq (s : State) (l : ArbLabel) : (s.arbGoto l).psq = s.psq := rfl
@[simp] theorem State.arbGoto_ctl (s : State) (l : ArbLabel) : (s.arbGoto l).ctl = s.ctl := rfl
@[simp] theorem State.arbGoto_sel0 (s : State) (l : ArbLabel) : (s.arbGoto l).sel0 = s.sel0 := rfl
@[simp] theorem State.arbGoto_sel1 (s : State) (l : ArbLabel) : (s.arbGoto l).sel1 = s.sel1 := rfl
@[simp] theorem State.arbGoto_xtalRdyLatch (s : State) (l : ArbLabel) : (s.arbGoto l).xtalRdyLatch = s.xtalRdyLatch := rfl
@[simp] theorem State.arbGoto_store (s : State) (l : ArbLabel) : (s.arbGoto l).store = s.store := rfl
@[simp] theorem State.arbGoto_now (s : State) (l : ArbLabel) : (s.arbGoto l).now = s.now := rfl
@[simp] theorem State.arbGoto_events (s : State) (l : ArbLabel) : (s.arbGoto l).events = s.events := rfl
@[simp] theorem State.arbGoto_rdata (s : State) (l : ArbLabel) : (s.arbGoto l).rdata = s.rdata := rfl
@[simp] theorem State.arbGoto_sched (s : State) (l : ArbLabel) : (s.arbGoto l).sched = s.sched := rfl
@[simp] theorem State.arbGoto_tick (s : State) (l : ArbLabel) : (s.arbGoto l).tick = s.tick := rfl
@[simp] theorem State.arbGoto_port (s : State) (l : ArbLabel) (p : Port) : (s.arbGoto l).port p = s.port p := by
  cases p <;> rfl
@[simp] theorem State.arbGoto_move (s : State) (l : ArbLabel) : (s.arbGoto l).move = s.move := rfl

/-! ### `State.psqGoto` -/

@[simp] theorem State.psqGoto_p0 (s : State) (l : PsqLabel) : (s.psqGoto l).p0 = s.p0 := rfl
@[simp] theorem State.psqGoto_p1 (s : State) (l : PsqLabel) : (s.psqGoto l).p1 = s.p1 := rfl
@[simp] theorem State.psqGoto_clk (s : State) (l : PsqLabel) : (s.psqGoto l).clk = s.clk := rfl
@[simp] theorem State.psqGoto_arb (s : State) (l : PsqLabel) : (s.psqGoto l).arb = s.arb := rfl
@[simp] theorem State.psqGoto_psq (s : State) (l : PsqLabel) : (s.psqGoto l).psq = { s.psq with seq := l } := rfl
@[simp] theorem State.psqGoto_ctl (s : State) (l : PsqLabel) : (s.psqGoto l).ctl = s.ctl := rfl
@[simp] theorem State.psqGoto_sel0 (s : State) (l : PsqLabel) : (s.psqGoto l).sel0 = s.sel0 := rfl
@[simp] theorem State.psqGoto_sel1 (s : State) (l : PsqLabel) : (s.psqGoto l).sel1 = s.sel1 := rfl
@[simp] theorem State.psqGoto_xtalRdyLatch (s : State) (l : PsqLabel) : (s.psqGoto l).xtalRdyLatch = s.xtalRdyLatch := rfl
@[simp] theorem State.psqGoto_store (s : State) (l : PsqLabel) : (s.psqGoto l).store = s.store := rfl
@[simp] theorem State.psqGoto_now (s : State) (l : PsqLabel) : (s.psqGoto l).now = s.now := rfl
@[simp] theorem State.psqGoto_events (s : State) (l : PsqLabel) : (s.psqGoto l).events = s.events := rfl
@[simp] theorem State.psqGoto_rdata (s : State) (l : PsqLabel) : (s.psqGoto l).rdata = s.rdata := rfl
@[simp] theorem State.psqGoto_sched (s : State) (l : PsqLabel) : (s.psqGoto l).sched = s.sched := rfl
@[simp] theorem State.psqGoto_tick (s : State) (l : PsqLabel) : (s.psqGoto l).tick = s.tick := rfl
@[simp] theorem State.psqGoto_port (s : State) (l : PsqLabel) (p : Port) : (s.psqGoto l).port p = s.port p := by
  cases p <;> rfl
@[simp] theorem State.psqGoto_move (s : State) (l : PsqLabel) : (s.psqGoto l).move = s.move := rfl

/-! ### `State.unlock` -/

@[simp] theorem State.unlock_p0 (s : State) : s.unlock.p0 = s.p0 := rfl
@[simp] theorem State.unlock_p1 (s : State) : s.unlock.p1 = s.p1 := rfl
@[simp] theorem State.unlock_clk (s : State) : s.unlock.clk = { s.clk with lock := .free } := rfl
@[simp] theorem State.unlock_arb (s : State) : s.unlock.arb = { s.arb with seq := .idle } := rfl
@[simp] theorem State.unlock_psq (s : State) : s.unlock.psq = s.psq := rfl
@[simp] theorem State.unlock_ctl (s : State) : s.unlock.ctl = s.ctl := rfl
@[simp] theorem State.unlock_sel0 (s : State) : s.unlock.sel0 = s.sel0 := rfl
@[simp] theorem State.unlock_sel1 (s : State) : s.unlock.sel1 = s.sel1 := rfl
@[simp] theorem State.unlock_xtalRdyLatch (s : State) : s.unlock.xtalRdyLatch = s.xtalRdyLatch := rfl
@[simp] theorem State.unlock_store (s : State) : s.unlock.store = s.store := rfl
@[simp] theorem State.unlock_now (s : State) : s.unlock.now = s.now := rfl
@[simp] theorem State.unlock_events (s : State) : s.unlock.events = s.events := rfl
@[simp] theorem State.unlock_rdata (s : State) : s.unlock.rdata = s.rdata := rfl
@[simp] theorem State.unlock_sched (s : State) : s.unlock.sched = s.sched := rfl
@[simp] theorem State.unlock_tick (s : State) : s.unlock.tick = s.tick := rfl
@[simp] theorem State.unlock_port (s : State) (p : Port) : s.unlock.port p = s.port p := by
  cases p <;> rfl
@[simp] theorem State.unlock_move (s : State) : s.unlock.move = s.move := rfl

/-! ### `State.callSwitch` -/

@[simp] theorem State.callSwitch_p0 (s : State) (t : BitVec 2) (r : ReturnLabel) : (s.callSwitch t r).p0 = s.p0 := rfl
@[simp] theorem State.callSwitch_p1 (s : State) (t : BitVec 2) (r : ReturnLabel) : (s.callSwitch t r).p1 = s.p1 := rfl
@[simp] theorem State.callSwitch_clk (s : State) (t : BitVec 2) (r : ReturnLabel) : (s.callSwitch t r).clk = s.clk := rfl
@[simp] theorem State.callSwitch_arb (s : State) (t : BitVec 2) (r : ReturnLabel) : (s.callSwitch t r).arb = { s.arb with tgt := t, ret := r, seq := .S0 } := rfl
@[simp] theorem State.callSwitch_psq (s : State) (t : BitVec 2) (r : ReturnLabel) : (s.callSwitch t r).psq = s.psq := rfl
@[simp] theorem State.callSwitch_ctl (s : State) (t : BitVec 2) (r : ReturnLabel) : (s.callSwitch t r).ctl = s.ctl := rfl
@[simp] theorem State.callSwitch_sel0 (s : State) (t : BitVec 2) (r : ReturnLabel) : (s.callSwitch t r).sel0 = s.sel0 := rfl
@[simp] theorem State.callSwitch_sel1 (s : State) (t : BitVec 2) (r : ReturnLabel) : (s.callSwitch t r).sel1 = s.sel1 := rfl
@[simp] theorem State.callSwitch_xtalRdyLatch (s : State) (t : BitVec 2) (r : ReturnLabel) : (s.callSwitch t r).xtalRdyLatch = s.xtalRdyLatch := rfl
@[simp] theorem State.callSwitch_store (s : State) (t : BitVec 2) (r : ReturnLabel) : (s.callSwitch t r).store = s.store := rfl
@[simp] theorem State.callSwitch_now (s : State) (t : BitVec 2) (r : ReturnLabel) : (s.callSwitch t r).now = s.now := rfl
@[simp] theorem State.callSwitch_events (s : State) (t : BitVec 2) (r : ReturnLabel) : (s.callSwitch t r).events = s.events := rfl
@[simp] theorem State.callSwitch_rdata (s : State) (t : BitVec 2) (r : ReturnLabel) : (s.callSwitch t r).rdata = s.rdata := rfl
@[simp] theorem State.callSwitch_sched (s : State) (t : BitVec 2) (r : ReturnLabel) : (s.callSwitch t r).sched = s.sched := rfl
@[simp] theorem State.callSwitch_tick (s : State) (t : BitVec 2) (r : ReturnLabel) : (s.callSwitch t r).tick = s.tick := rfl
@[simp] theorem State.callSwitch_port (s : State) (t : BitVec 2) (r : ReturnLabel) (p : Port) : (s.callSwitch t r).port p = s.port p := by
  cases p <;> rfl
@[simp] theorem State.callSwitch_move (s : State) (t : BitVec 2) (r : ReturnLabel) : (s.callSwitch t r).move = s.move := rfl

/-! ### `State.setPort` -/

@[simp] theorem State.setPort_clk (s : State) (p : Port) (q : PortState) : (s.setPort p q).clk = s.clk := by
  cases p <;> rfl
@[simp] theorem State.setPort_arb (s : State) (p : Port) (q : PortState) : (s.setPort p q).arb = s.arb := by
  cases p <;> rfl
@[simp] theorem State.setPort_psq (s : State) (p : Port) (q : PortState) : (s.setPort p q).psq = s.psq := by
  cases p <;> rfl
@[simp] theorem State.setPort_ctl (s : State) (p : Port) (q : PortState) : (s.setPort p q).ctl = s.ctl := by
  cases p <;> rfl
@[simp] theorem State.setPort_sel0 (s : State) (p : Port) (q : PortState) : (s.setPort p q).sel0 = s.sel0 := by
  cases p <;> rfl
@[simp] theorem State.setPort_sel1 (s : State) (p : Port) (q : PortState) : (s.setPort p q).sel1 = s.sel1 := by
  cases p <;> rfl
@[simp] theorem State.setPort_xtalRdyLatch (s : State) (p : Port) (q : PortState) : (s.setPort p q).xtalRdyLatch = s.xtalRdyLatch := by
  cases p <;> rfl
@[simp] theorem State.setPort_store (s : State) (p : Port) (q : PortState) : (s.setPort p q).store = s.store := by
  cases p <;> rfl
@[simp] theorem State.setPort_now (s : State) (p : Port) (q : PortState) : (s.setPort p q).now = s.now := by
  cases p <;> rfl
@[simp] theorem State.setPort_events (s : State) (p : Port) (q : PortState) : (s.setPort p q).events = s.events := by
  cases p <;> rfl
@[simp] theorem State.setPort_rdata (s : State) (p : Port) (q : PortState) : (s.setPort p q).rdata = s.rdata := by
  cases p <;> rfl
@[simp] theorem State.setPort_sched (s : State) (p : Port) (q : PortState) : (s.setPort p q).sched = s.sched := by
  cases p <;> rfl
@[simp] theorem State.setPort_tick (s : State) (p : Port) (q : PortState) : (s.setPort p q).tick = s.tick := by
  cases p <;> rfl
@[simp] theorem State.setPort_move (s : State) (p : Port) (q : PortState) : (s.setPort p q).move = s.move := by
  cases p <;> rfl
theorem State.setPort_port (s : State) (p r : Port) (q : PortState) :
    (s.setPort p q).port r = if r = p then q else s.port r := by
  cases p <;> cases r <;> rfl
@[simp] theorem State.setPort_port_same (s : State) (p : Port) (q : PortState) : (s.setPort p q).port p = q := by
  cases p <;> rfl
@[simp] theorem State.setPort_port_other (s : State) (p : Port) (q : PortState) :
    (s.setPort p q).port (otherPort p) = s.port (otherPort p) := by
  cases p <;> rfl
@[simp] theorem State.setPort_setPort (s : State) (p : Port) (q r : PortState) :
    (s.setPort p q).setPort p r = s.setPort p r := by
  cases p <;> rfl
@[simp] theorem State.setPort_self (s : State) (p : Port) : s.setPort p (s.port p) = s := by
  cases p <;> rfl
@[simp] theorem State.port_p0 (s : State) : s.port .p0 = s.p0 := rfl
@[simp] theorem State.port_p1 (s : State) : s.port .p1 = s.p1 := rfl
theorem otherPort_ne (p : Port) : otherPort p ≠ p := by cases p <;> decide
theorem eq_or_eq_otherPort (p q : Port) : q = p ∨ q = otherPort p := by cases p <;> cases q <;> decide

/-! ### The end of a command (rules R82, R170, R171) -/

@[simp] theorem State.endCommand_psq (s : State) (eng : Engine) (p : Port) (st : Status) (c : BitVec 4) : (s.endCommand eng p st c).psq = s.psq := by
  cases eng <;> cases p <;> rfl
@[simp] theorem State.endCommand_ctl (s : State) (eng : Engine) (p : Port) (st : Status) (c : BitVec 4) : (s.endCommand eng p st c).ctl = s.ctl := by
  cases eng <;> cases p <;> rfl
@[simp] theorem State.endCommand_sel0 (s : State) (eng : Engine) (p : Port) (st : Status) (c : BitVec 4) : (s.endCommand eng p st c).sel0 = s.sel0 := by
  cases eng <;> cases p <;> rfl
@[simp] theorem State.endCommand_sel1 (s : State) (eng : Engine) (p : Port) (st : Status) (c : BitVec 4) : (s.endCommand eng p st c).sel1 = s.sel1 := by
  cases eng <;> cases p <;> rfl
@[simp] theorem State.endCommand_xtalRdyLatch (s : State) (eng : Engine) (p : Port) (st : Status) (c : BitVec 4) : (s.endCommand eng p st c).xtalRdyLatch = s.xtalRdyLatch := by
  cases eng <;> cases p <;> rfl
@[simp] theorem State.endCommand_store (s : State) (eng : Engine) (p : Port) (st : Status) (c : BitVec 4) : (s.endCommand eng p st c).store = s.store := by
  cases eng <;> cases p <;> rfl
@[simp] theorem State.endCommand_now (s : State) (eng : Engine) (p : Port) (st : Status) (c : BitVec 4) : (s.endCommand eng p st c).now = s.now := by
  cases eng <;> cases p <;> rfl
@[simp] theorem State.endCommand_rdata (s : State) (eng : Engine) (p : Port) (st : Status) (c : BitVec 4) : (s.endCommand eng p st c).rdata = s.rdata := by
  cases eng <;> cases p <;> rfl
@[simp] theorem State.endCommand_sched (s : State) (eng : Engine) (p : Port) (st : Status) (c : BitVec 4) : (s.endCommand eng p st c).sched = s.sched := by
  cases eng <;> cases p <;> rfl
@[simp] theorem State.endCommand_tick (s : State) (eng : Engine) (p : Port) (st : Status) (c : BitVec 4) : (s.endCommand eng p st c).tick = s.tick := by
  cases eng <;> cases p <;> rfl
@[simp] theorem State.endCommand_events (s : State) (eng : Engine) (p : Port) (st : Status) (c : BitVec 4) : (s.endCommand eng p st c).events = s.events ++ [.complete p c] := by
  cases eng <;> cases p <;> rfl
@[simp] theorem State.endCommand_clk (s : State) (eng : Engine) (p : Port) (st : Status) (c : BitVec 4) :
    (s.endCommand eng p st c).clk = if eng = .arb then { s.clk with lock := .free } else s.clk := by
  cases eng <;> cases p <;> rfl
@[simp] theorem State.endCommand_arb (s : State) (eng : Engine) (p : Port) (st : Status) (c : BitVec 4) :
    (s.endCommand eng p st c).arb = if eng = .arb then { s.arb with seq := .idle } else s.arb := by
  cases eng <;> cases p <;> rfl
@[simp] theorem State.endCommand_port_same (s : State) (eng : Engine) (p : Port) (st : Status) (c : BitVec 4) :
    (s.endCommand eng p st c).port p = { s.port p with status := st, pend := .none } := by
  cases eng <;> cases p <;> rfl
@[simp] theorem State.endCommand_port_other (s : State) (eng : Engine) (p : Port) (st : Status) (c : BitVec 4) :
    (s.endCommand eng p st c).port (otherPort p) = s.port (otherPort p) := by
  cases eng <;> cases p <;> rfl
theorem State.endCommand_port (s : State) (eng : Engine) (p : Port) (st : Status) (c : BitVec 4) (r : Port) :
    (s.endCommand eng p st c).port r =
      if r = p then { s.port p with status := st, pend := .none } else s.port r := by
  cases eng <;> cases p <;> cases r <;> rfl

@[simp] theorem State.raiseError_psq (s : State) (eng : Engine) (p : Port) (e : CmdError) : (s.raiseError eng p e).psq = s.psq := by
  cases eng <;> cases p <;> rfl
@[simp] theorem State.raiseError_ctl (s : State) (eng : Engine) (p : Port) (e : CmdError) : (s.raiseError eng p e).ctl = s.ctl := by
  cases eng <;> cases p <;> rfl
@[simp] theorem State.raiseError_sel0 (s : State) (eng : Engine) (p : Port) (e : CmdError) : (s.raiseError eng p e).sel0 = s.sel0 := by
  cases eng <;> cases p <;> rfl
@[simp] theorem State.raiseError_sel1 (s : State) (eng : Engine) (p : Port) (e : CmdError) : (s.raiseError eng p e).sel1 = s.sel1 := by
  cases eng <;> cases p <;> rfl
@[simp] theorem State.raiseError_xtalRdyLatch (s : State) (eng : Engine) (p : Port) (e : CmdError) : (s.raiseError eng p e).xtalRdyLatch = s.xtalRdyLatch := by
  cases eng <;> cases p <;> rfl
@[simp] theorem State.raiseError_store (s : State) (eng : Engine) (p : Port) (e : CmdError) : (s.raiseError eng p e).store = s.store := by
  cases eng <;> cases p <;> rfl
@[simp] theorem State.raiseError_now (s : State) (eng : Engine) (p : Port) (e : CmdError) : (s.raiseError eng p e).now = s.now := by
  cases eng <;> cases p <;> rfl
@[simp] theorem State.raiseError_rdata (s : State) (eng : Engine) (p : Port) (e : CmdError) : (s.raiseError eng p e).rdata = s.rdata := by
  cases eng <;> cases p <;> rfl
@[simp] theorem State.raiseError_sched (s : State) (eng : Engine) (p : Port) (e : CmdError) : (s.raiseError eng p e).sched = s.sched := by
  cases eng <;> cases p <;> rfl
@[simp] theorem State.raiseError_tick (s : State) (eng : Engine) (p : Port) (e : CmdError) : (s.raiseError eng p e).tick = s.tick := by
  cases eng <;> cases p <;> rfl
@[simp] theorem State.raiseError_events (s : State) (eng : Engine) (p : Port) (e : CmdError) : (s.raiseError eng p e).events = s.events ++ [.complete p e.ecode] := by
  cases eng <;> cases p <;> rfl
@[simp] theorem State.raiseError_clk (s : State) (eng : Engine) (p : Port) (e : CmdError) :
    (s.raiseError eng p e).clk = if eng = .arb then { s.clk with lock := .free } else s.clk := by
  cases eng <;> cases p <;> rfl
@[simp] theorem State.raiseError_arb (s : State) (eng : Engine) (p : Port) (e : CmdError) :
    (s.raiseError eng p e).arb = if eng = .arb then { s.arb with seq := .idle } else s.arb := by
  cases eng <;> cases p <;> rfl
@[simp] theorem State.raiseError_port_same (s : State) (eng : Engine) (p : Port) (e : CmdError) :
    (s.raiseError eng p e).port p = { s.port p with status := (s.port p).status.failed e, pend := .none } := by
  cases eng <;> cases p <;> rfl
@[simp] theorem State.raiseError_port_other (s : State) (eng : Engine) (p : Port) (e : CmdError) :
    (s.raiseError eng p e).port (otherPort p) = s.port (otherPort p) := by
  cases eng <;> cases p <;> rfl
theorem State.raiseError_port (s : State) (eng : Engine) (p : Port) (e : CmdError) (r : Port) :
    (s.raiseError eng p e).port r =
      if r = p then { s.port p with status := (s.port p).status.failed e, pend := .none } else s.port r := by
  cases eng <;> cases p <;> cases r <;> rfl

@[simp] theorem State.finish_psq (s : State) (eng : Engine) (p : Port) : (s.finish eng p).psq = s.psq := by
  cases eng <;> cases p <;> rfl
@[simp] theorem State.finish_ctl (s : State) (eng : Engine) (p : Port) : (s.finish eng p).ctl = s.ctl := by
  cases eng <;> cases p <;> rfl
@[simp] theorem State.finish_sel0 (s : State) (eng : Engine) (p : Port) : (s.finish eng p).sel0 = s.sel0 := by
  cases eng <;> cases p <;> rfl
@[simp] theorem State.finish_sel1 (s : State) (eng : Engine) (p : Port) : (s.finish eng p).sel1 = s.sel1 := by
  cases eng <;> cases p <;> rfl
@[simp] theorem State.finish_xtalRdyLatch (s : State) (eng : Engine) (p : Port) : (s.finish eng p).xtalRdyLatch = s.xtalRdyLatch := by
  cases eng <;> cases p <;> rfl
@[simp] theorem State.finish_store (s : State) (eng : Engine) (p : Port) : (s.finish eng p).store = s.store := by
  cases eng <;> cases p <;> rfl
@[simp] theorem State.finish_now (s : State) (eng : Engine) (p : Port) : (s.finish eng p).now = s.now := by
  cases eng <;> cases p <;> rfl
@[simp] theorem State.finish_rdata (s : State) (eng : Engine) (p : Port) : (s.finish eng p).rdata = s.rdata := by
  cases eng <;> cases p <;> rfl
@[simp] theorem State.finish_sched (s : State) (eng : Engine) (p : Port) : (s.finish eng p).sched = s.sched := by
  cases eng <;> cases p <;> rfl
@[simp] theorem State.finish_tick (s : State) (eng : Engine) (p : Port) : (s.finish eng p).tick = s.tick := by
  cases eng <;> cases p <;> rfl
@[simp] theorem State.finish_events (s : State) (eng : Engine) (p : Port) : (s.finish eng p).events = s.events ++ [.complete p 0] := by
  cases eng <;> cases p <;> rfl
@[simp] theorem State.finish_clk (s : State) (eng : Engine) (p : Port) :
    (s.finish eng p).clk = if eng = .arb then { s.clk with lock := .free } else s.clk := by
  cases eng <;> cases p <;> rfl
@[simp] theorem State.finish_arb (s : State) (eng : Engine) (p : Port) :
    (s.finish eng p).arb = if eng = .arb then { s.arb with seq := .idle } else s.arb := by
  cases eng <;> cases p <;> rfl
@[simp] theorem State.finish_port_same (s : State) (eng : Engine) (p : Port) :
    (s.finish eng p).port p = { s.port p with status := (s.port p).status.ended, pend := .none } := by
  cases eng <;> cases p <;> rfl
@[simp] theorem State.finish_port_other (s : State) (eng : Engine) (p : Port) :
    (s.finish eng p).port (otherPort p) = s.port (otherPort p) := by
  cases eng <;> cases p <;> rfl
theorem State.finish_port (s : State) (eng : Engine) (p : Port) (r : Port) :
    (s.finish eng p).port r =
      if r = p then { s.port p with status := (s.port p).status.ended, pend := .none } else s.port r := by
  cases eng <;> cases p <;> cases r <;> rfl

/-! ### Flags (rules R13, R61, R170, R171) -/

@[simp] theorem Status.issued_busy (s : Status) : s.issued.busy = true := rfl
@[simp] theorem Status.issued_done (s : Status) : s.issued.done = false := rfl
@[simp] theorem Status.issued_err (s : Status) : s.issued.err = false := rfl
@[simp] theorem Status.issued_ovr (s : Status) : s.issued.ovr = s.ovr := rfl
@[simp] theorem Status.issued_ecode (s : Status) : s.issued.ecode = 0 := rfl
@[simp] theorem Status.issued_einfo (s : Status) : s.issued.einfo = 0 := rfl
@[simp] theorem Status.ended_busy (s : Status) : s.ended.busy = false := rfl
@[simp] theorem Status.ended_done (s : Status) : s.ended.done = true := rfl
@[simp] theorem Status.ended_err (s : Status) : s.ended.err = s.err := rfl
@[simp] theorem Status.ended_ovr (s : Status) : s.ended.ovr = s.ovr := rfl
@[simp] theorem Status.ended_ecode (s : Status) : s.ended.ecode = s.ecode := rfl
@[simp] theorem Status.ended_einfo (s : Status) : s.ended.einfo = s.einfo := rfl
@[simp] theorem Status.failed_busy (s : Status) (e : CmdError) : (s.failed e).busy = false := rfl
@[simp] theorem Status.failed_done (s : Status) (e : CmdError) : (s.failed e).done = true := rfl
@[simp] theorem Status.failed_err (s : Status) (e : CmdError) : (s.failed e).err = true := rfl
@[simp] theorem Status.failed_ovr (s : Status) (e : CmdError) : (s.failed e).ovr = s.ovr := rfl
@[simp] theorem Status.failed_ecode (s : Status) (e : CmdError) : (s.failed e).ecode = e.ecode := rfl
@[simp] theorem Status.failed_einfo (s : Status) (e : CmdError) : (s.failed e).einfo = e.einfo := rfl
@[simp] theorem Status.overrun_busy (s : Status) : s.overrun.busy = s.busy := rfl
@[simp] theorem Status.overrun_ovr (s : Status) : s.overrun.ovr = true := rfl

/-! ### The control fields (rule R23) -/

/-- Setting a field leaves every other field alone. -/
theorem Ctl.get_set_other (c : Ctl) {f g : CtlField} (v : Byte) (h : g ≠ f) : (c.set f v).get g = c.get g := by
  cases f <;> cases g <;> first | rfl | exact absurd rfl h

/-- A field set holds the value cut to the field's width. -/
theorem Ctl.get_set_same (c : Ctl) (f : CtlField) (v : Byte) :
    (c.set f v).get f = (v.setWidth (fieldWidth f)).setWidth 8 := by
  cases f <;> rfl

end Sys2Proof.Machine
end

