-- ==== Sys2Proof/Laws/Memory.lean ====
section
/-! SUPPORT. The laws of the register store (rules R41 to R43), of the map of its fields (rule R45) and of
the settle waits (rule R180). -/

namespace Sys2Proof.Machine

/-! ### Reading after writing -/

/-- A write leaves every other address alone. -/
theorem Memory.read_write_other (m : Memory) {a b : Nat} (v : Byte) (h : b ≠ a) :
    Memory.read (Memory.write m a v) b = Memory.read m b := by
  induction m with
  | nil =>
    simp only [Memory.write]
    split
    · rfl
    · simp [Memory.read, Ne.symm h]
  | cons c m ih =>
    simp only [Memory.write]
    split
    · split
      · rfl
      · simp [Memory.read, Ne.symm h]
    · split
      · rename_i hc
        subst hc
        split <;> simp [Memory.read, Ne.symm h]
      · simp [Memory.read, ih]

/-- Every entry of a canonical list lies above its head. -/
theorem Memory.read_below {m : Memory} {a : Nat} (hw : Memory.wf m = true) (h : ∀ c ∈ m.head?, a < c.1) :
    Memory.read m a = Memory.unlisted a := by
  induction m with
  | nil => rfl
  | cons c m ih =>
    have hac : a < c.1 := h c (by simp)
    have hne : c.1 ≠ a := by omega
    cases m with
    | nil => simp [Memory.read, hne]
    | cons d m =>
      simp only [Memory.wf, Bool.and_eq_true, decide_eq_true_eq] at hw
      rw [Memory.read, if_neg hne]
      exact ih hw.2 (by simp; omega)

/-- The tail of a canonical list is canonical. -/
theorem Memory.wf_tail {c : Host.Cell} {m : Memory} (h : Memory.wf (c :: m) = true) : Memory.wf m = true := by
  cases m with
  | nil => rfl
  | cons d m => simp only [Memory.wf, Bool.and_eq_true] at h; exact h.2

/-- The entries after the head lie above it. -/
theorem Memory.wf_head_lt {c : Host.Cell} {m : Memory} (h : Memory.wf (c :: m) = true) :
    ∀ d ∈ m.head?, c.1 < d.1 := by
  cases m with
  | nil => simp
  | cons d m => simp only [Memory.wf, Bool.and_eq_true, decide_eq_true_eq] at h; simpa using h.1.1

/-- The head of a canonical list is in the address space and no unlisted byte. -/
theorem Memory.wf_head {c : Host.Cell} {m : Memory} (h : Memory.wf (c :: m) = true) :
    c.1 < 2 ^ 24 ∧ c.2 ≠ Memory.unlisted c.1 := by
  induction m generalizing c with
  | nil => simpa [Memory.wf] using h
  | cons d m ih =>
    simp only [Memory.wf, Bool.and_eq_true, decide_eq_true_eq, bne_iff_ne] at h
    have hd := ih h.2
    exact ⟨by omega, h.1.2⟩

/-- How a canonical list is built. -/
theorem Memory.wf_cons {c : Host.Cell} {m : Memory} (ha : c.1 < 2 ^ 24) (hv : c.2 ≠ Memory.unlisted c.1)
    (hm : Memory.wf m = true) (hlt : ∀ d ∈ m.head?, c.1 < d.1) : Memory.wf (c :: m) = true := by
  cases m with
  | nil => simpa [Memory.wf, hv] using ha
  | cons d m =>
    have hcd : c.1 < d.1 := hlt d (by simp)
    simp [Memory.wf, hv, hm, hcd]

/-- A read after a write to the same address gives the byte written. -/
theorem Memory.read_write_same {m : Memory} {a : Nat} (v : Byte) (hw : Memory.wf m = true) :
    Memory.read (Memory.write m a v) a = v := by
  induction m with
  | nil =>
    simp only [Memory.write]
    split
    · rename_i h; simp [Memory.read, h]
    · simp [Memory.read]
  | cons c m ih =>
    simp only [Memory.write]
    split
    · rename_i hlt
      split
      · rename_i hv
        rw [hv]
        exact Memory.read_below hw (by simpa using hlt)
      · simp [Memory.read]
    · split
      · rename_i hc
        split
        · rename_i hv
          rw [hv]
          exact Memory.read_below (Memory.wf_tail hw) (by rw [← hc]; exact Memory.wf_head_lt hw)
        · simp [Memory.read]
      · rename_i hc
        simp [Memory.read, hc, ih (Memory.wf_tail hw)]

/-- The head of a list after a write is the address written or the head it had. -/
theorem Memory.head_write {m : Memory} {a b : Nat} {v : Byte} (hab : b < a) (h : ∀ d ∈ m.head?, b < d.1)
    (hw : Memory.wf m = true) : ∀ d ∈ (Memory.write m a v).head?, b < d.1 := by
  cases m with
  | nil =>
    simp only [Memory.write]
    split <;> simp [hab]
  | cons c m =>
    have hc : b < c.1 := h c (by simp)
    simp only [Memory.write]
    split
    · split <;> simp [hab, hc]
    · split
      · split
        · have := Memory.wf_head_lt hw
          intro d hd
          exact Nat.lt_trans hc (this d hd)
        · simp [hab]
      · simp [hc]

/-- A write keeps the canonical form. -/
theorem Memory.wf_write {m : Memory} {a : Nat} {v : Byte} (ha : a < 2 ^ 24) (hw : Memory.wf m = true) :
    Memory.wf (Memory.write m a v) = true := by
  induction m with
  | nil =>
    simp only [Memory.write]
    split
    · rfl
    · rename_i h; exact Memory.wf_cons ha h rfl (by simp)
  | cons c m ih =>
    have hc := Memory.wf_head hw
    have htl := Memory.wf_tail hw
    have hlt := Memory.wf_head_lt hw
    simp only [Memory.write]
    split
    · rename_i hac
      split
      · exact hw
      · rename_i h; exact Memory.wf_cons ha h hw (by simpa using hac)
    · rename_i hac
      split
      · rename_i hca
        split
        · exact htl
        · rename_i h; exact Memory.wf_cons ha h htl (by simpa [hca] using hlt)
      · rename_i hca
        exact Memory.wf_cons hc.1 hc.2 (ih htl) (Memory.head_write (by omega) hlt htl)

/-- `updateBits` (rule R43) keeps the canonical form. -/
theorem Memory.wf_updateBits {m : Memory} {a : Nat} {k v : Byte} (ha : a < 2 ^ 24) (hw : Memory.wf m = true) :
    Memory.wf (Memory.updateBits m a k v) = true :=
  Memory.wf_write ha hw

/-- `updateBits` (rule R43) at its own address. -/
theorem Memory.read_updateBits_same {m : Memory} {a : Nat} (k v : Byte) (hw : Memory.wf m = true) :
    Memory.read (Memory.updateBits m a k v) a = (Memory.read m a &&& ~~~k) ||| (v &&& k) :=
  Memory.read_write_same _ hw

/-- `updateBits` (rule R43) leaves every other address alone. -/
theorem Memory.read_updateBits_other (m : Memory) {a b : Nat} (k v : Byte) (h : b ≠ a) :
    Memory.read (Memory.updateBits m a k v) b = Memory.read m b :=
  Memory.read_write_other m _ h

/-- Every address a rule names is in the address space (rule R41). -/
theorem addr_lt (f : CtlField) : (rsMap f).addr.toNat < 2 ^ 24 := (rsMap f).addr.isLt

/-- `RS.update` keeps the canonical form of the store. -/
@[simp] theorem State.rsUpdate_wf (s : State) (f : CtlField) (v : Byte) (h : Memory.wf s.store = true) :
    Memory.wf (s.rsUpdate f v).store = true :=
  Memory.wf_updateBits (addr_lt f) h

/-- The store after reset is canonical. -/
@[simp] theorem State.reset_store_wf : Memory.wf State.reset.store = true := rfl

/-! ### The map of the control fields (rules R44, R45) -/

/-- The map and the precious addresses meet rules R44 and R45 whatever the free values are. -/
theorem rsMap_ok : rsMapOk rsMap precious = true := by
  unfold rsMap precious
  split
  · assumption
  · decide

/-- Every field is in the list of fields. -/
theorem mem_allFields (f : CtlField) : f ∈ allFields := by cases f <;> decide

/-- One field's location meets rule R45 and, by the premise of rule R44, is not precious. -/
theorem rsMap_field (f : CtlField) : locOk f (rsMap f) = true ∧ precious (rsMap f).addr = false := by
  have h := List.all_eq_true.mp rsMap_ok f (mem_allFields f)
  simp only [Bool.and_eq_true, Bool.not_eq_true'] at h
  exact h.1

/-- One field's location meets rule R45. -/
theorem rsMap_loc (f : CtlField) : locOk f (rsMap f) = true := (rsMap_field f).1

/-- Two fields do not overlap (rule R45). -/
theorem rsMap_disjoint {f g : CtlField} (h : f ≠ g) :
    (rsMap f).addr ≠ (rsMap g).addr ∨ (rsMap f).mask &&& (rsMap g).mask = 0 := by
  have hf := List.all_eq_true.mp rsMap_ok f (mem_allFields f)
  rw [Bool.and_eq_true] at hf
  have hg := List.all_eq_true.mp hf.2 g (mem_allFields g)
  simpa [locDisjoint, h] using hg

/-- A field's bits, zero outside its mask. -/
@[simp] theorem fieldBits_and_mask (f : CtlField) (v : Byte) : fieldBits f v &&& (rsMap f).mask = fieldBits f v := by
  simp [fieldBits, BitVec.and_assoc]

/-! ### Waits (rules R5, R180) -/

/-- `T_DAC_STARTUP` is at least 10 ms. -/
theorem dacStartup_ge : 10000 ≤ dacStartup := Nat.le_add_right _ _

/-- `T_PDN_SETTLE` is less than `T_DAC_STARTUP` and at most 99 ms. -/
theorem duration_pdnSettle_lt : duration .T_PDN_SETTLE < min dacStartup (maxSettle + 1) := by
  have h := dacStartup_ge
  have h' : maxSettle = 99000 := rfl
  have hm : Config.pdnSettleRaw % (min dacStartup (maxSettle + 1) - 10) < min dacStartup (maxSettle + 1) - 10 :=
    Nat.mod_lt _ (by omega)
  simp only [duration]
  omega

/-- Every settle time is at least 10 µs (rule R5). -/
theorem duration_ge (w : WaitName) : 10 ≤ duration w := by
  have h := dacStartup_ge
  cases w <;> simp only [duration] <;> omega

/-- A settle time with an upper bound keeps it (rule R5). -/
theorem duration_le {w : WaitName} {d : Nat} (h : durationBound w = some d) : duration w ≤ d := by
  have hp := duration_pdnSettle_lt
  cases w <;> cases h
  · simp only [duration, maxSettle]; omega
  · simp only [duration, maxSettle]; omega
  · omega

/-- A settle wait is over exactly when its duration has passed (rule R180). -/
theorem waitOver_iff (w : WaitName) (e : Nat) : waitOver w e = true ↔ duration w ≤ e := by
  simp only [waitOver, Bool.or_eq_true, decide_eq_true_eq, Option.any_eq_true]
  refine ⟨fun h => h.elim (fun ⟨d, hd, he⟩ => Nat.le_trans (duration_le hd) he) id, .inr⟩

end Sys2Proof.Machine
end

