-- ==== Sys2Proof/Certificates/Slice0/Obligations.lean ====
section
/-! DEFINITION. The statements about the model. A statement about a labelled step gives the whole next
state as an equation, so it is its own frame: what it does not name is as before. `State.advance` is the
schedule's "move made"; `State.rsUpdate` is `RS.update`, `State.finish` is `done`, `State.raiseError` is
`raise`, each spelled out once in a statement of its own. -/

open Sys2Proof Sys2Proof.Machine

/-! ## Encoding -/

/-- Every well-formed command is read back from its word, with every operand at every value (rules R63 to
R70). -/
def Obligations.DecodeOfEncodeIsTheCommand : Prop :=
  ∀ i : Instr, i.wf = true → decode (encode i) = .ok i

/-- A word the decoder accepts is the word of the command it gives, and that command is well formed (rules
R60, R70): each word has one meaning and no bit of it is dropped. -/
def Obligations.EncodeOfDecodeIsTheWord : Prop :=
  ∀ (w : Word) (i : Instr), decode w = .ok i → i.wf = true ∧ encode i = w

/-- Rule R71: the opcode test, the reserved-bit test, and the engine a legal word goes to. -/
def Obligations.DecodeRoutesEveryWord : Prop :=
  ∀ w : Word, let opc := w.toNat / 2 ^ 28
    (0xA < opc → decode w = .error .illegalOpcode ∧ issuePend w = .fu) ∧
    (opc ≤ 0xA → ¬ legalFields w → decode w = .error .reservedBits ∧ issuePend w = .fu) ∧
    (opc ≤ 0xA → legalFields w →
      (∃ i, decode w = .ok i) ∧
      (opc ∈ [0x0, 0x6, 0x7, 0x8, 0x9] → issuePend w = .fu) ∧
      (opc ∈ [0xA, 0x1, 0x2, 0x3] → issuePend w = .arbWait) ∧
      (opc ∈ [0x4, 0x5] → issuePend w = .psqWait))

/-- Canonical words of rule R72, one of each format and one illegal word of each kind. -/
def Obligations.CanonicalWordsDecode : Prop :=
  decode 0x00000000 = .ok .nop ∧ decode 0x10000000 = .ok .acq ∧ decode 0x30000001 = .ok (.sws 1) ∧
    decode 0x60000005 = .ok (.sfmt 2 1) ∧ decode 0x80000608 = .ok (.fmt 24 2 0) ∧
    decode 0x90000413 = .ok (.divl 16 4 1 1) ∧ decode 0xA0000005 = .ok (.cfg 2 1) ∧
    decode 0xB0000000 = .error .illegalOpcode ∧ decode 0x90000409 = .error .reservedBits

/-- Rule R70: the one step of an illegal word reports the error in `STATUS` and changes nothing else. That a
malformed `FMT` or `DIVL` keeps its results is the model's reading (log 15). -/
def Obligations.IllegalWordOnlyReports : Prop :=
  ∀ (s : State) (p : Port) (e : DecodeError), s.move = .fu p → (s.port p).pend = .fu →
    decode (s.port p).cmdLatch = .error e →
    step s = .next (((s.setPort p { s.port p with
      status := { (s.port p).status with
        busy := false, done := true, err := true, ecode := 7,
        einfo := match e with | .illegalOpcode => 1 | .reservedBits => 2 },
      pend := .none }).log (.complete p 7)).advance)

/-! ## The host port -/

/-- Rule R61: a write of `w` to `CMD`. A busy port drops it and sets `OVR`; an idle one latches the word and
its operands, and `pend` is what rule R71 gives (`DecodeRoutesEveryWord`). -/
def Obligations.IssueLatchesTheCommand : Prop :=
  ∀ (s : State) (p : Port) (w : Word), s.move = .host (.write 4 (SlaveReg.port p .CMD).offset w) →
    ((s.port p).status.busy = true →
      step s = .next (s.setPort p { s.port p with status := { (s.port p).status with ovr := true } }).advance) ∧
    ((s.port p).status.busy = false →
      step s = .next (((s.setPort p { s.port p with
        cmd := w, cmdLatch := w, rateLatch := (s.port p).argRate, bclkLatch := (s.port p).argBclk,
        status := { (s.port p).status with busy := true, done := false, err := false, ecode := 0, einfo := 0 },
        pend := issuePend w }).log (.issue p w)).advance))

/-- Rules R12 and R46: a write to an operand register sets it, busy or not; a write that is not a whole
aligned word, or reaches no register or a read-only one, changes nothing. Accesses are by offset from `BASE`
(log 10). -/
def Obligations.OtherHostWrites : Prop :=
  ∀ (s : State) (p : Port) (v : Word),
    (s.move = .host (.write 4 (SlaveReg.port p .ARG_RATE).offset v) →
      step s = .next (s.setPort p { s.port p with argRate := v }).advance) ∧
    (s.move = .host (.write 4 (SlaveReg.port p .ARG_BCLK).offset v) →
      step s = .next (s.setPort p { s.port p with argBclk := v }).advance) ∧
    (∀ size offset : Nat, s.move = .host (.write size offset v) →
      size ≠ 4 ∨ offset ∉ [0x00, 0x04, 0x08, 0x40, 0x44, 0x48] → step s = .next s.advance)

/-- Rule R46: a read of a register returns its word and changes nothing else; any other read returns 0. What
the host has read last is a field of the model's own. It is log 14; accesses are by offset from `BASE` (log
10). -/
def Obligations.HostReadsReturnTheWord : Prop :=
  ∀ (s : State) (size offset : Nat), s.move = .host (.read size offset) →
    ∃ v : Word, step s = .next (State.advance { s with rdata := v }) ∧
      (∀ r : SlaveReg, size = 4 → offset = r.offset → v = s.regWord r) ∧
      ((size ≠ 4 ∨ ∀ r : SlaveReg, offset ≠ r.offset) → v = 0)

/-- What the word of each register is, and where each field stands in it (rules R12, R13, R21, R22, R26): five
registers of a port are one word each, the others show their fields. -/
def Obligations.ReadBackBitLayout : Prop :=
  (∀ q : PortState,
    (q.regWord .CMD = q.cmd ∧ q.regWord .ARG_RATE = q.argRate ∧ q.regWord .ARG_BCLK = q.argBclk ∧
      q.regWord .IFBCLK = q.ifbclk ∧ q.regWord .RES_BCLK = q.resBclk) ∧
    let st := q.regWord .STATUS; let cf := q.regWord .IFCFG; let dv := q.regWord .RES_DIV; let fr := q.regWord .RES_FRM
    (st.getLsbD 0 = q.status.busy ∧ st.getLsbD 1 = q.status.done ∧ st.getLsbD 2 = q.status.err ∧
      st.getLsbD 3 = q.status.ovr ∧ st.extractLsb' 4 4 = q.status.ecode ∧ st.extractLsb' 8 8 = q.status.einfo ∧
      st.extractLsb' 16 16 = 0) ∧
    (cf.extractLsb' 0 1 = q.mstr ∧ cf.extractLsb' 1 3 = q.ffmt ∧ cf.extractLsb' 4 28 = 0) ∧
    (dv.extractLsb' 0 16 = q.num ∧ dv.extractLsb' 16 16 = q.den) ∧
    (fr.extractLsb' 0 7 = q.frm.frame ∧ fr.extractLsb' 7 7 = q.frm.hitime ∧ fr.extractLsb' 14 2 = q.frm.delay ∧
      fr.extractLsb' 16 1 = q.frm.phase ∧ fr.extractLsb' 17 4 = q.frm.rcode ∧ fr.extractLsb' 21 2 = q.frm.wcode ∧
      fr.extractLsb' 23 1 = q.frm.dsdSpeed ∧ fr.extractLsb' 24 1 = q.frm.dsdSrc ∧ fr.extractLsb' 25 1 = q.frm.dsd ∧
      fr.extractLsb' 26 5 = 0 ∧ fr.getLsbD 31 = q.frm.valid)) ∧
  (∀ s : State,
    (∀ (p : Port) (r : PortReg), s.regWord (.port p r) = (s.port p).regWord r) ∧
    let ck := s.regWord .CLKSTAT; let ct := s.regWord .CTLOUT; let sc := s.regWord .SCRATCH
    (ck.extractLsb' 0 2 = sourceCode s.clk.clkSrc ∧ ck.extractLsb' 2 1 = s.clk.refSel ∧
      ck.extractLsb' 3 1 = s.clk.pllBypass ∧ ck.extractLsb' 4 2 = s.clk.xtalBias ∧
      (ck.getLsbD 6 = true ↔ s.clk.lock ≠ .free) ∧ (ck.getLsbD 7 = true ↔ s.clk.lock = .held .p1) ∧
      (ck.getLsbD 8 = true ↔ s.psq.owner ≠ .none) ∧ ck.extractLsb' 9 7 = 0 ∧
      ck.extractLsb' 16 8 = s.clk.reqCnt ∧ ck.extractLsb' 24 8 = 0) ∧
    (ct.extractLsb' 0 1 = s.ctl.xtalPdn ∧ ct.extractLsb' 1 1 = s.ctl.pllPdn ∧
      ct.extractLsb' 2 2 = s.ctl.mclkSrcSel ∧ ct.extractLsb' 4 1 = s.ctl.mclkInt ∧
      ct.extractLsb' 5 1 = s.ctl.xtalRdyIe ∧ ct.getLsbD 6 = s.sel0 ∧ ct.getLsbD 7 = s.sel1 ∧
      ct.extractLsb' 8 1 = s.ctl.mute ∧ ct.extractLsb' 9 1 = s.ctl.pdnDoneInh ∧
      ct.extractLsb' 10 1 = s.ctl.pdnOut ∧ ct.extractLsb' 11 1 = s.ctl.pdnPath ∧
      ct.extractLsb' 12 1 = s.ctl.asp3st ∧ ct.getLsbD 13 = s.xtalRdyLatch ∧ ct.extractLsb' 14 18 = 0) ∧
    (sc.extractLsb' 0 8 = s.ctl.scratchA ∧ sc.extractLsb' 8 8 = s.ctl.scratchB ∧ sc.extractLsb' 16 16 = 0))

/-! ## Reset -/

/-- The values of rule R191 that the spec states: every register of both ports, the ClockState, the engines
idle, the control fields, the board selects, the latch, and the three shared words of rule R26. (The
values of the fields rule R191 leaves unspecified are the model's, log 1, and are not stated.) -/
def Obligations.ResetHoldsTheSpecsValues : Prop :=
  let s := State.reset
  (∀ (p : Port) (r : PortReg), s.regWord (.port p r) = 0) ∧ (∀ p : Port, (s.port p).pend = .none) ∧
    s.clk.clkSrc = .ringOscillator ∧ s.clk.refSel = 0 ∧ s.clk.pllBypass = 1 ∧ s.clk.reqCnt = 0 ∧
    s.clk.xtalBias = 0 ∧ s.clk.lock = .free ∧ s.arb.seq = .idle ∧ s.psq.seq = .idle ∧ s.psq.owner = .none ∧
    s.psq.reqArb = false ∧ s.xtalRdyLatch = false ∧ s.sel0 = false ∧ s.sel1 = false ∧ s.events = [] ∧
    s.regWord .CLKSTAT = 0x0000000A ∧ s.regWord .CTLOUT = 0x00001D0B ∧ s.regWord .SCRATCH = 0

/-- Rule R190: the input `rst` gives every piece of state its reset value and abandons what is in flight; no
event, and nothing written to the register store. The fields rule R191 leaves unspecified take the model's
values (log 1, DESIGN CHOICE). That asserting and releasing `rst` is one move, and that time stands still in
it and goes on after it, is the model's reading (log 11, DEDUCED: rule R191 does not list `now`, and rule
R179 has it never go back). -/
def Obligations.ResetInputRestoresReset : Prop :=
  ∀ s : State, s.move = .rst →
    ∃ t, step s = .next t ∧ t.p0 = PortState.reset ∧ t.p1 = PortState.reset ∧ t.clk = ClockState.reset ∧
      t.arb = ArbState.reset ∧ t.psq = PsqState.reset ∧ t.ctl = Ctl.reset ∧ t.sel0 = false ∧ t.sel1 = false ∧
      t.xtalRdyLatch = false ∧ t.events = [] ∧ t.now = s.now ∧
      ∀ a, Memory.read t.store a = Memory.read s.store a

/-! ## The register store and the event history -/

/-- Rule R43: `RS.update(F, v)` sets `CTL.F` to `v` (cut to the field's width) and no other field, appends
its event, and issues the read-modify-write of the field's byte, whether or not the value changes; no
other byte and no other state changes. -/
def Obligations.RsUpdateWritesFieldEventAndStore : Prop :=
  ∀ (s : State) (f : CtlField) (v : Byte), Memory.wf s.store = true →
    let t := s.rsUpdate f v; let l := rsMap f
    t.ctl.get f = (v.setWidth (fieldWidth f)).setWidth 8 ∧ (∀ g, g ≠ f → t.ctl.get g = s.ctl.get g) ∧
      t.events = s.events ++ [.rsUpdate f v] ∧
      Memory.read t.store l.addr.toNat =
        (Memory.read s.store l.addr.toNat &&& ~~~l.mask) ||| (((v <<< l.shift.toNat) &&& l.mask) &&& l.mask) ∧
      (∀ a, a ≠ l.addr.toNat → Memory.read t.store a = Memory.read s.store a) ∧
      t.p0 = s.p0 ∧ t.p1 = s.p1 ∧ t.clk = s.clk ∧ t.arb = s.arb ∧ t.psq = s.psq ∧ t.sel0 = s.sel0 ∧
      t.sel1 = s.sel1 ∧ t.xtalRdyLatch = s.xtalRdyLatch ∧ t.now = s.now ∧ t.rdata = s.rdata

/-- Every step keeps the canonical form of the register store. -/
def Obligations.StoreStaysCanonical : Prop :=
  ∀ s t : State, Memory.wf s.store = true → step s = .next t → Memory.wf t.store = true

/-- Rules R43 and R50: outside reset a step only appends to the event history, and the control fields and
every byte of the register store are what the `RSUpdate` events it appended make of them; a byte that
changes is not at a precious address. That the store is plain memory is the model's reading under the premise of rule
R44 (log 18, DEDUCED). -/
def Obligations.HistoryDeterminesControlAndStore : Prop :=
  ∀ s t : State, NoPreciousField → s.move ≠ .rst → step s = .next t →
    ∃ es, t.events = s.events ++ es ∧ t.ctl = replayCtl s.ctl es ∧ t.store = replayStore s.store es ∧
      ∀ a : BitVec 24, Memory.read t.store a.toNat ≠ Memory.read s.store a.toNat → precious a = false

/-- Rules R43, R45, R192: once every field of the chip holds what the block believes (the launch premise of
rule R192) in a canonical store, every step but reset keeps both so. That the store is plain memory is the
model's reading under the premise of rule R44 (log 18, DEDUCED). -/
def Obligations.StoreAgreementIsKept : Prop :=
  ∀ s t : State, NoPreciousField → Memory.wf s.store = true → StoreAgrees s → s.move ≠ .rst → step s = .next t →
    StoreAgrees t ∧ Memory.wf t.store = true

/-! ## The end of a command -/

/-- Rules R82, R170 and R171: what `raise` and `done` do, on each engine; the arbiter gives the lock back in
the same step. (The zeroed results of a failing `FMT` or `DIVL` are in the statements about those two.)
Rules R166 and R167: the code and the detail of each error. -/
def Obligations.RaiseAndDoneReportAndFree : Prop :=
  (∀ (s : State) (p : Port) (e : CmdError),
    let raised := (s.setPort p { s.port p with
      status := { (s.port p).status with
        err := true, ecode := e.ecode, einfo := e.einfo, busy := false, done := true },
      pend := .none }).log (.complete p e.ecode)
    let done := (s.setPort p { s.port p with
      status := { (s.port p).status with busy := false, done := true }, pend := .none }).log (.complete p 0)
    let freed := fun (t : State) =>
      { t with clk := { s.clk with lock := .free }, arb := { s.arb with seq := .idle } }
    s.raiseError .fu p e = raised ∧ s.raiseError .psq p e = raised ∧ s.raiseError .arb p e = freed raised ∧
      s.finish .fu p = done ∧ s.finish .psq p = done ∧ s.finish .arb p = freed done) ∧
  (CmdError.xtalNotReady.ecode = 1 ∧ CmdError.xtalNotReady.einfo = 1) ∧
    (CmdError.unsupWidth.ecode = 2 ∧ CmdError.unsupWidth.einfo = 0) ∧
    (CmdError.unsupFfmt.ecode = 3 ∧ CmdError.unsupFfmt.einfo = 0) ∧
    ([CmdError.noReference, .rateNotInTable, .frameSize, .noDividerRow, .dsdRate].map
      (fun e => (e.ecode, e.einfo)) = [(4, 1), (4, 2), (4, 3), (4, 4), (4, 5)]) ∧
    (CmdError.clkNotCfg.ecode = 5 ∧ CmdError.clkNotCfg.einfo = 0) ∧
    (CmdError.insuffClk.ecode = 6 ∧ CmdError.insuffClk.einfo = 0) ∧
    ([CmdError.illegalOpcode, .reservedBits, .invalidSource, .countOverflow, .countUnderflow, .cfgInUse].map
      (fun e => (e.ecode, e.einfo)) = [(7, 1), (7, 2), (7, 3), (7, 4), (7, 5), (7, 6)])

/-! ## The format units -/

/-- Rule R83: `NOP` ends at once, whoever holds the lock; and from reset it leaves every register at its
reset value but `STATUS[0]` = 2. -/
def Obligations.NopEndsAtOnce : Prop :=
  (∀ (s : State) (p : Port), s.move = .fu p →
    exec .nop s = .next (((s.setPort p { s.port p with
      status := { (s.port p).status with busy := false, done := true }, pend := .none }).log
        (.complete p 0)).advance)) ∧
  (∃ t, step (State.reset.withFetchWord 32 0x00000000) = .next t ∧ t.regWord (.port .p0 .STATUS) = 0x00000002 ∧
    ∀ r, r ≠ .port .p0 .STATUS → t.regWord r = State.reset.regWord r)

/-- Rules R126 and R127: `SFMT` stores format and mode, recognised or not; `SCLK` stores the latched bit
clock, any value; both end without error and change nothing else. -/
def Obligations.SfmtAndSclkStoreTheConfiguration : Prop :=
  ∀ (s : State) (p : Port) (ffmt : BitVec 3) (mstr : Bit), s.move = .fu p →
    exec (.sfmt ffmt mstr) s = .next (((s.setPort p { s.port p with
      ffmt := ffmt, mstr := mstr, status := { (s.port p).status with busy := false, done := true },
      pend := .none }).log (.complete p 0)).advance) ∧
    exec .sclk s = .next (((s.setPort p { s.port p with
      ifbclk := (s.port p).bclkLatch, status := { (s.port p).status with busy := false, done := true },
      pend := .none }).log (.complete p 0)).advance)

/-- Rules R124 and R125: the lookup finds a row exactly for a supported frame size and rate, but for the one
ratio above 1, and the row is the exact fraction in lowest terms. The values rest on `REF_HZ` (log 3). -/
def Obligations.DivLookupIsTheExactFraction : Prop :=
  ∀ (k : Bit) (fs r : Nat),
    divLookup k fs r =
      if fs ∈ [16, 32, 48, 64] ∧ r ∈ rates ∧ ¬ (k = 0 ∧ fs = 64 ∧ r = 384000) then
        some (fs * r / Nat.gcd (fs * r) (refHz k), refHz k / Nat.gcd (fs * r) (refHz k))
      else none

/-- Rules R129, R130, R135 to R139: what a `FMT` that passes every check delivers. Nothing else of the port
changes but the flags and `pend`, and nothing outside the port but the event. The divider rests on `REF_HZ`
(log 3). -/
def Obligations.FmtDeliversTheResults : Prop :=
  ∀ (s : State) (p : Port) (W : BitVec 6) (C : BitVec 4) (D : Bit), s.move = .fu p →
    let q := s.port p; let w := W.toNat; let c := C.toNat; let r := q.rateLatch.toNat; let k := s.clk.refSel
    let b := if q.ifbclk = 0 ∧ q.mstr = 1 then r * w * c else q.ifbclk.toNat
    let bcw := b / r / c; let fs := bcw * c; let g := Nat.gcd (fs * r) (refHz k)
    w ∈ [8, 16, 24, 32] → q.ffmt.toNat ≤ 3 →
    r ∈ [32000, 44100, 48000, 88200, 96000, 176400, 192000, 352800, 384000] → c ≠ 0 → b ≠ 0 → w ≤ bcw →
    fs ∈ [16, 32, 48, 64] → ¬ (k = 0 ∧ fs = 64 ∧ r = 384000) → (D = 1 → r = 176400 ∨ r = 352800) →
    exec (.fmt W C D) s = .next (((s.setPort p { q with
      num := BitVec.ofNat 16 (fs * r / g), den := BitVec.ofNat 16 (refHz k / g), resBclk := BitVec.ofNat 32 b,
      frm :=
        { frame := BitVec.ofNat 7 fs
          hitime := BitVec.ofNat 7 (if q.ffmt.toNat ≤ 1 then bcw else 1)
          delay := if q.ffmt = 3 then 0 else 2
          phase := if q.ffmt = 0 then 0 else 1
          rcode := BitVec.ofNat 4 (rates.idxOf r)
          wcode := BitVec.ofNat 2 (w / 8 - 1)
          dsdSpeed := if D = 1 ∧ r = 352800 then 1 else 0
          dsdSrc := if D = 1 then portBit p else 0
          dsd := D
          valid := true },
      status := { q.status with busy := false, done := true }, pend := .none }).log (.complete p 0)).advance)

/-- Rules R129, R131 to R137, R139, R170: the first failing check of a `FMT`, in the order F1 to F9, is the
error it ends with; its results are zeroed and nothing else changes. -/
def Obligations.FmtReportsTheFirstFailingCheck : Prop :=
  ∀ (s : State) (p : Port) (W : BitVec 6) (C : BitVec 4) (D : Bit), s.move = .fu p →
    let q := s.port p; let w := W.toNat; let c := C.toNat; let r := q.rateLatch.toNat; let k := s.clk.refSel
    let b := if q.ifbclk = 0 ∧ q.mstr = 1 then r * w * c else q.ifbclk.toNat
    let bcw := b / r / c; let fs := bcw * c
    let okW := w ∈ [8, 16, 24, 32]; let okF := q.ffmt.toNat ≤ 3
    let okR := r ∈ [32000, 44100, 48000, 88200, 96000, 176400, 192000, 352800, 384000]
    let okFs := fs ∈ [16, 32, 48, 64]
    let ends := fun (e : CmdError) =>
      exec (.fmt W C D) s = .next (((s.setPort p { q with
        num := 0, den := 0, frm := FrameResult.zero, resBclk := 0,
        status := { q.status with busy := false, done := true, err := true, ecode := e.ecode, einfo := e.einfo },
        pend := .none }).log (.complete p e.ecode)).advance)
    (¬ okW → ends .unsupWidth) ∧
    (okW → ¬ okF → ends .unsupFfmt) ∧
    (okW → okF → ¬ okR → ends .rateNotInTable) ∧
    (okW → okF → okR → c = 0 → ends .frameSize) ∧
    (okW → okF → okR → c ≠ 0 → b = 0 → ends .clkNotCfg) ∧
    (okW → okF → okR → c ≠ 0 → b ≠ 0 → bcw < w → ends .insuffClk) ∧
    (okW → okF → okR → c ≠ 0 → b ≠ 0 → w ≤ bcw → ¬ okFs → ends .frameSize) ∧
    (okW → okF → okR → c ≠ 0 → b ≠ 0 → w ≤ bcw → okFs → (k = 0 ∧ fs = 64 ∧ r = 384000) → ends .noDividerRow) ∧
    (okW → okF → okR → c ≠ 0 → b ≠ 0 → w ≤ bcw → okFs → ¬ (k = 0 ∧ fs = 64 ∧ r = 384000) →
      D = 1 → r ≠ 176400 → r ≠ 352800 → ends .dsdRate)

/-- Rule R140: what a `DIVL` delivers, and the first failing check it ends with; nothing else changes. The
divider rests on `REF_HZ` (log 3). -/
def Obligations.DivlLooksUpOrReports : Prop :=
  ∀ (s : State) (p : Port) (B : BitVec 6) (C : BitVec 4) (X R : Bit), s.move = .fu p →
    let q := s.port p; let r := q.rateLatch.toNat; let fs := B.toNat * C.toNat
    let k := if X = 1 then R else s.clk.refSel; let g := Nat.gcd (fs * r) (refHz k)
    let okR := r ∈ [32000, 44100, 48000, 88200, 96000, 176400, 192000, 352800, 384000]
    let okFs := fs ∈ [16, 32, 48, 64]
    let ends := fun (e : CmdError) =>
      exec (.divl B C X R) s = .next (((s.setPort p { q with
        num := 0, den := 0, frm := FrameResult.zero, resBclk := 0,
        status := { q.status with busy := false, done := true, err := true, ecode := e.ecode, einfo := e.einfo },
        pend := .none }).log (.complete p e.ecode)).advance)
    (¬ okR → ends .rateNotInTable) ∧ (okR → ¬ okFs → ends .frameSize) ∧
    (okR → okFs → (k = 0 ∧ fs = 64 ∧ r = 384000) → ends .noDividerRow) ∧
    (okR → okFs → ¬ (k = 0 ∧ fs = 64 ∧ r = 384000) →
      exec (.divl B C X R) s = .next (((s.setPort p { q with
        num := BitVec.ofNat 16 (fs * r / g), den := BitVec.ofNat 16 (refHz k / g), resBclk := 0,
        frm := { FrameResult.zero with
          frame := BitVec.ofNat 7 fs, rcode := BitVec.ofNat 4 (rates.idxOf r), valid := true },
        status := { q.status with busy := false, done := true }, pend := .none }).log (.complete p 0)).advance))

/-- Rule R142: the fraction a successful `FMT` or `DIVL` leaves in the result registers is exact, in lowest
terms, not above 1, and its denominator at most 5120. It rests on `REF_HZ` (log 3). -/
def Obligations.LookupResultsAreExact : Prop :=
  ∀ (s t : State) (p : Port) (i : Instr) (k : Bit), s.move = .fu p →
    ((∃ W C D, i = .fmt W C D ∧ k = s.clk.refSel) ∨
      ∃ B C X R, i = .divl B C X R ∧ k = if X = 1 then R else s.clk.refSel) →
    exec i s = .next t → (t.port p).frm.valid = true →
    let q := t.port p
    q.num.toNat * refHz k = q.den.toNat * q.frm.frame.toNat * (s.port p).rateLatch.toNat ∧
      Nat.gcd q.num.toNat q.den.toNat = 1 ∧ 1 ≤ q.num.toNat ∧ q.num.toNat ≤ q.den.toNat ∧ q.den.toNat ≤ 5120

/-! ## The arbiter -/

/-- Rule R81: the start of an arbiter command takes the lock for the port that was offered, and writes
nothing else. -/
def Obligations.ArbiterStartTakesTheLock : Prop :=
  ∀ (s : State) (p : Port), s.move = .arb p → s.clk.lock = .free → s.arb.seq = .idle →
    (s.port p).pend = .arbWait →
    let started := fun (l : ArbLabel) =>
      (State.advance { (s.setPort p { s.port p with pend := .arbRun }) with
        clk := { s.clk with lock := .held p }, arb := { s.arb with seq := l } })
    (∀ b y, exec (.cfg b y) s = .next (started .C0)) ∧ exec .acq s = .next (started .A0) ∧
      exec .rel s = .next (started .L0) ∧ ∀ tgt, exec (.sws tgt) s = .next (started .W0)

/-- Rule R86: the steps of `CFG`. -/
def Obligations.CfgSteps : Prop :=
  ∀ (s : State) (p : Port) (b : BitVec 2) (y : Bit),
    (s.ArbTurn p .C0 → s.clk.reqCnt ≠ 0 → exec (.cfg b y) s = .next (s.raiseError .arb p .cfgInUse).advance) ∧
    (s.ArbTurn p .C0 → s.clk.reqCnt = 0 → exec (.cfg b y) s = .next (s.arbGoto .C1).advance) ∧
    (s.ArbTurn p .C1 → exec (.cfg b y) s =
      .next (({ s with clk := { s.clk with pllBypass := y, xtalBias := b } }).finish .arb p).advance)

/-- Rules R90 to R95: the steps of `ACQ` around the source switch. A4 is taken once the settle time of A3 has
passed. Rule R114: the reference A1 picks for each supported rate, with the remainders and the ratio. A1
rests on `REF_HZ` (log 3). -/
def Obligations.AcqSteps : Prop :=
  (∀ (s : State) (p : Port), let r := (s.port p).rateLatch.toNat
    let chosen := fun (k : Bit) =>
      State.advance { s with clk := { s.clk with refSel := k }, arb := { s.arb with seq := .A2 } }
    (s.ArbTurn p .A0 → exec .acq s = .next (s.arbGoto (if s.clk.reqCnt = 0 then .A1 else .A6)).advance) ∧
    (s.ArbTurn p .A1 → r = 0 → exec .acq s = .next (s.raiseError .arb p .noReference).advance) ∧
    (s.ArbTurn p .A1 → r ≠ 0 → 22579200 % r = 0 → exec .acq s = .next (chosen 0)) ∧
    (s.ArbTurn p .A1 → r ≠ 0 → 22579200 % r ≠ 0 → 24576000 % r = 0 → exec .acq s = .next (chosen 1)) ∧
    (s.ArbTurn p .A1 → r ≠ 0 → 22579200 % r ≠ 0 → 24576000 % r ≠ 0 →
      exec .acq s = .next (s.raiseError .arb p .noReference).advance) ∧
    (s.ArbTurn p .A2 → exec .acq s =
      .next (State.advance { s with
        sel0 := s.clk.refSel == 0, sel1 := s.clk.refSel == 1,
        events := s.events ++ [.boardSel s.clk.refSel], arb := { s.arb with seq := .A3 } })) ∧
    (s.ArbTurn p .A3 → exec .acq s =
      .next (State.advance { s with
        arb := { s.arb with seq := .A4, wt := s.now }, events := s.events ++ [.wait .T_REFSEL] })) ∧
    (s.ArbTurn p .A4 → duration .T_REFSEL ≤ s.now - s.arb.wt → exec .acq s =
      .next (State.advance { s with arb := { s.arb with
        tgt := if s.clk.pllBypass = 1 then 0 else 1, ret := .A5, seq := .S0 } })) ∧
    (s.ArbTurn p .A5 → exec .acq s = .next (s.arbGoto .A6).advance) ∧
    (s.ArbTurn p .A6 → s.clk.reqCnt = 255 →
      exec .acq s = .next (s.raiseError .arb p .countOverflow).advance) ∧
    (s.ArbTurn p .A6 → s.clk.reqCnt ≠ 255 → exec .acq s =
      .next (State.advance { s with
        clk := { s.clk with reqCnt := s.clk.reqCnt + 1 }, arb := { s.arb with seq := .A7 } })) ∧
    (s.ArbTurn p .A7 → exec .acq s = .next (s.finish .arb p).advance)) ∧
  (rates.map pickReference =
    [some 1, some 0, some 1, some 0, some 1, some 0, some 1, some 0, some 1] ∧
  rates.map (fun r => (22579200 % r, 24576000 % r)) =
    [(19200, 0), (0, 12300), (19200, 0), (0, 56400), (19200, 0), (0, 56400), (115200, 0), (0, 232800), (307200, 0)] ∧
  rates.map (fun r => (pickReference r).map fun k => refHz k / r) =
    [some 768, some 512, some 512, some 256, some 256, some 128, some 128, some 64, some 64])

/-- Rule R97: the steps of `REL` on the arbiter. At L2 the request goes up, the engine holds until the
sequencer has run the power-down for it, and the request comes down. The bit that marks the release is the
model's (log 7). -/
def Obligations.RelSteps : Prop :=
  ∀ (s : State) (p : Port),
    (s.ArbTurn p .L0 → s.clk.reqCnt = 0 → exec .rel s = .next (s.raiseError .arb p .countUnderflow).advance) ∧
    (s.ArbTurn p .L0 → s.clk.reqCnt ≠ 0 → exec .rel s = .next (s.arbGoto .L1).advance) ∧
    (s.ArbTurn p .L1 → 1 < s.clk.reqCnt.toNat → exec .rel s =
      .next (({ s with clk := { s.clk with reqCnt := s.clk.reqCnt - 1 } }).finish .arb p).advance) ∧
    (s.ArbTurn p .L1 → s.clk.reqCnt.toNat ≤ 1 → exec .rel s = .next (s.arbGoto .L2).advance) ∧
    (s.ArbTurn p .L2 → s.psq.reqArb = false → exec .rel s =
      .next (State.advance { s with psq := { s.psq with reqArb := true } })) ∧
    (s.ArbTurn p .L2 → s.psq.reqArb = true → s.psq.arbReleased = false → exec .rel s = .next s.advance) ∧
    (s.ArbTurn p .L2 → s.psq.reqArb = true → s.psq.arbReleased = true → exec .rel s =
      .next (State.advance { s with
        psq := { s.psq with reqArb := false, arbReleased := false },
        arb := { s.arb with seq := .L3 } })) ∧
    (s.ArbTurn p .L3 → exec .rel s =
      .next (State.advance { s with clk := { s.clk with reqCnt := 0 }, arb := { s.arb with seq := .L4 } })) ∧
    (s.ArbTurn p .L4 → exec .rel s =
      .next (State.advance { s with arb := { s.arb with tgt := 2, ret := .L5, seq := .S0 } })) ∧
    (s.ArbTurn p .L5 → exec .rel s = .next (s.finish .arb p).advance)

/-- Rule R98: the steps of `SWS` around the source switch. -/
def Obligations.SwsSteps : Prop :=
  ∀ (s : State) (p : Port) (tgt : BitVec 2),
    (s.ArbTurn p .W0 → exec (.sws tgt) s =
      .next (State.advance { s with arb := { s.arb with tgt := tgt, ret := .W1, seq := .S0 } })) ∧
    (s.ArbTurn p .W1 → exec (.sws tgt) s = .next (s.finish .arb p).advance)

/-- Rule R100: steps S0 and S1 of the source switch, for each command that runs it. -/
def Obligations.SwitchTestsItsTarget : Prop :=
  ∀ (i : Instr) (s : State) (p : Port), switchCaller i = true →
    (s.ArbTurn p .S0 → s.arb.tgt = sourceCode s.clk.clkSrc → exec i s =
      .next (State.advance { s with arb := { s.arb with
        seq := match s.arb.ret with | .A5 => .A5 | .L5 => .L5 | .W1 => .W1 } })) ∧
    (s.ArbTurn p .S0 → s.arb.tgt ≠ sourceCode s.clk.clkSrc → exec i s = .next (s.arbGoto .S1).advance) ∧
    (s.ArbTurn p .S1 → s.arb.tgt = 3 → exec i s = .next (s.raiseError .arb p .invalidSource).advance) ∧
    (s.ArbTurn p .S1 → s.arb.tgt = 2 → exec i s = .next (s.arbGoto .O1).advance) ∧
    (s.ArbTurn p .S1 → s.arb.tgt = 0 ∨ s.arb.tgt = 1 → exec i s = .next (s.arbGoto .X1).advance)

/-- Rules R101 to R103: steps X1 to X5, the crystal and its ready wait. With the crystal unused there is no
wait. Before 100 ms have passed without the signal the engine waits; after them it gives up; the disarm comes
before the failure. That a waiting engine's move changes nothing is the model's form (log 8). -/
def Obligations.SwitchBringsUpTheCrystal : Prop :=
  ∀ (i : Instr) (s : State) (p : Port), switchCaller i = true →
    (s.ArbTurn p .X1 → s.clk.xtalBias = 0 → exec i s =
      .next ((s.rsUpdate .XTAL_PDN 1).arbGoto (if s.arb.tgt = 0 then .E6 else .P6)).advance) ∧
    (s.ArbTurn p .X1 → s.clk.xtalBias ≠ 0 → exec i s = .next (s.arbGoto .X2).advance) ∧
    (s.ArbTurn p .X2 → exec i s =
      .next ((({ s with xtalRdyLatch := false }).rsUpdate .XTAL_PDN 0).arbGoto .X3).advance) ∧
    (s.ArbTurn p .X3 → exec i s =
      .next (State.advance { s.rsUpdate .XTAL_RDY_IE 1 with arb := { s.arb with wt := s.now, seq := .X4 } })) ∧
    (s.ArbTurn p .X4 → s.xtalRdyLatch = true → exec i s =
      .next (State.advance { s with arb := { s.arb with got := true, seq := .X5 } })) ∧
    (s.ArbTurn p .X4 → s.xtalRdyLatch = false → 100000 ≤ s.now - s.arb.wt → exec i s =
      .next (State.advance { s with arb := { s.arb with got := false, seq := .X5 } })) ∧
    (s.ArbTurn p .X4 → s.xtalRdyLatch = false → s.now - s.arb.wt < 100000 → exec i s = .next s.advance) ∧
    (s.ArbTurn p .X5 → s.arb.got = false → exec i s =
      .next ((s.rsUpdate .XTAL_RDY_IE 0).raiseError .arb p .xtalNotReady).advance) ∧
    (s.ArbTurn p .X5 → s.arb.got = true → exec i s =
      .next ((s.rsUpdate .XTAL_RDY_IE 0).arbGoto (if s.arb.tgt = 0 then .E6 else .P6)).advance)

/-- Rule R104: steps E6 to E9, the tail of the switch to EXTERNAL. -/
def Obligations.SwitchToExternalTail : Prop :=
  ∀ (i : Instr) (s : State) (p : Port), switchCaller i = true →
    (s.ArbTurn p .E6 → exec i s =
      .next (((s.rsUpdate .MCLK_SRC_SEL 0).rsUpdate .MCLK_INT (s.clk.refSel.setWidth 8)).arbGoto .E7).advance) ∧
    (s.ArbTurn p .E7 → exec i s =
      .next (State.advance { s with
        arb := { s.arb with seq := .E8, wt := s.now },
        events := s.events ++ [.wait .T_SRC_SETTLE] })) ∧
    (s.ArbTurn p .E8 → duration .T_SRC_SETTLE ≤ s.now - s.arb.wt → exec i s =
      .next ((s.rsUpdate .PLL_PDN 1).arbGoto .E9).advance) ∧
    (s.ArbTurn p .E9 → exec i s =
      .next (State.advance { s with clk := { s.clk with clkSrc := .external }, arb := { s.arb with
        seq := match s.arb.ret with | .A5 => .A5 | .L5 => .L5 | .W1 => .W1 } }))

/-- Rule R108: steps P6 to P10, the tail of the switch to PLL. -/
def Obligations.SwitchToPllTail : Prop :=
  ∀ (i : Instr) (s : State) (p : Port), switchCaller i = true →
    (s.ArbTurn p .P6 → exec i s = .next ((s.rsUpdate .PLL_PDN 0).arbGoto .P7).advance) ∧
    (s.ArbTurn p .P7 → exec i s =
      .next (State.advance { s with
        arb := { s.arb with seq := .P8, wt := s.now },
        events := s.events ++ [.wait .T_SRC_SETTLE] })) ∧
    (s.ArbTurn p .P8 → duration .T_SRC_SETTLE ≤ s.now - s.arb.wt → exec i s =
      .next (((s.rsUpdate .MCLK_SRC_SEL 1).rsUpdate .MCLK_INT (s.clk.refSel.setWidth 8)).arbGoto .P9).advance) ∧
    (s.ArbTurn p .P9 → exec i s =
      .next (State.advance { s with
        arb := { s.arb with seq := .P10, wt := s.now },
        events := s.events ++ [.wait .T_SRC_SETTLE] })) ∧
    (s.ArbTurn p .P10 → duration .T_SRC_SETTLE ≤ s.now - s.arb.wt → exec i s =
      .next (State.advance { s with clk := { s.clk with clkSrc := .pll }, arb := { s.arb with
        seq := match s.arb.ret with | .A5 => .A5 | .L5 => .L5 | .W1 => .W1 } }))

/-- Rule R111: steps O1 to O4, the switch to the ring oscillator. -/
def Obligations.SwitchToRingOscillator : Prop :=
  ∀ (i : Instr) (s : State) (p : Port), switchCaller i = true →
    (s.ArbTurn p .O1 → exec i s =
      .next (((s.rsUpdate .MCLK_SRC_SEL 2).rsUpdate .MCLK_INT 0).arbGoto .O2).advance) ∧
    (s.ArbTurn p .O2 → exec i s =
      .next (State.advance { s with
        arb := { s.arb with seq := .O3, wt := s.now },
        events := s.events ++ [.wait .T_SRC_SETTLE] })) ∧
    (s.ArbTurn p .O3 → duration .T_SRC_SETTLE ≤ s.now - s.arb.wt → exec i s =
      .next (((s.rsUpdate .XTAL_PDN 1).rsUpdate .PLL_PDN 1).arbGoto .O4).advance) ∧
    (s.ArbTurn p .O4 → exec i s =
      .next (State.advance { s with clk := { s.clk with clkSrc := .ringOscillator }, arb := { s.arb with
        seq := match s.arb.ret with | .A5 => .A5 | .L5 => .L5 | .W1 => .W1 } }))

/-! ## The power sequencer -/

/-- Rule R151: the start of a sequence, for a port and for the arbiter. For the arbiter it is taken once per
request (log 7). -/
def Obligations.SequencerStart : Prop :=
  ∀ (s : State), s.psq.seq = .idle →
    (∀ p, s.move = .psq (.port p) → s.psq.owner = .none → (s.port p).pend = .psqWait →
      let started := fun (l : PsqLabel) =>
        (State.advance { (s.setPort p { s.port p with pend := .psqRun }) with
          psq := { s.psq with seq := l, owner := .port p } })
      exec .pdn s = .next (started .D1) ∧ exec .pup s = .next (started .U1)) ∧
    (s.psqMoves = true → s.psq.reqArb = true → s.psq.arbReleased = false →
      exec .rel s = .next (State.advance { s with psq := { s.psq with seq := .D1, owner := .arb } }))

/-- Rules R151 and R153: the steps of the power-down sequence, for `PDN` of a port and for the power-down
inside `REL`. The bit that releases L2 of `REL` is the model's (log 7). -/
def Obligations.PowerDownSteps : Prop :=
  ∀ (i : Instr) (s : State) (o : PsqOwner), (i = .pdn ∧ ∃ p, o = .port p) ∨ (i = .rel ∧ o = .arb) →
    (s.PsqTurn o .D1 → exec i s = .next ((s.rsUpdate .MUTE 1).psqGoto .D2).advance) ∧
    (s.PsqTurn o .D2 → exec i s = .next ((s.rsUpdate .PDN_DONE_INH 1).psqGoto .D3).advance) ∧
    (s.PsqTurn o .D3 → exec i s = .next ((s.rsUpdate .PDN_OUT 1).psqGoto .D4).advance) ∧
    (s.PsqTurn o .D4 → exec i s =
      .next (State.advance { s with
        psq := { s.psq with seq := .D5, wt := s.now },
        events := s.events ++ [.wait .T_PDN_SETTLE] })) ∧
    (s.PsqTurn o .D5 → duration .T_PDN_SETTLE ≤ s.now - s.psq.wt → exec i s =
      .next ((s.rsUpdate .PDN_PATH 1).psqGoto .D6).advance) ∧
    (∀ p, o = .port p → s.PsqTurn o .D6 → exec i s =
      .next (({ s.rsUpdate .PDN_DONE_INH 0 with psq := { s.psq with seq := .idle, owner := .none } }).finish
        .psq p).advance) ∧
    (o = .arb → s.PsqTurn o .D6 → exec i s =
      .next (State.advance { s.rsUpdate .PDN_DONE_INH 0 with
        psq := { s.psq with seq := .idle, owner := .none, arbReleased := true } }))

/-- Rules R151 and R156: the steps of the power-up sequence. -/
def Obligations.PowerUpSteps : Prop :=
  ∀ (s : State) (p : Port),
    (s.PsqTurn (.port p) .U1 → exec .pup s = .next ((s.rsUpdate .ASP_3ST 0).psqGoto .U2).advance) ∧
    (s.PsqTurn (.port p) .U2 → exec .pup s =
      .next (((s.rsUpdate .SCRATCH_A Config.kA).rsUpdate .SCRATCH_B Config.kB).psqGoto .U3).advance) ∧
    (s.PsqTurn (.port p) .U3 → exec .pup s =
      .next (((s.rsUpdate .PDN_PATH 0).rsUpdate .PDN_OUT 0).psqGoto .U4).advance) ∧
    (s.PsqTurn (.port p) .U4 → exec .pup s =
      .next (State.advance { s with
        psq := { s.psq with seq := .U5, wt := s.now },
        events := s.events ++ [.wait .T_DAC_STARTUP] })) ∧
    (s.PsqTurn (.port p) .U5 → duration .T_DAC_STARTUP ≤ s.now - s.psq.wt → exec .pup s =
      .next (({ (s.rsUpdate .SCRATCH_A 0).rsUpdate .SCRATCH_B 0 with
        psq := { s.psq with seq := .idle, owner := .none } }).finish .psq p).advance)

/-! ## Waits, the crystal, time -/

/-- Rule R180: an engine inside a settle wait takes no step before the wait's duration has passed: A4 after
`T_REFSEL` (rule R93), E8, P8, P10 and O3 after `T_SRC_SETTLE` (rules R104, R108, R111), D5 after
`T_PDN_SETTLE` (rule R153), U5 after `T_DAC_STARTUP` (rule R156); and the durations lie in the bounds of rule
R5. That the engine's move then changes nothing is the model's form (log 8); the unit, a microsecond, is the
model's (log 9); the durations are free within the bounds (logs 4, 13). -/
def Obligations.SettleWaitsHoldTheEngine : Prop :=
  (∀ w ∈ [WaitName.T_REFSEL, .T_SRC_SETTLE, .T_PDN_SETTLE], 10 ≤ duration w ∧ duration w ≤ 99000) ∧
  duration .T_PDN_SETTLE < duration .T_DAC_STARTUP ∧ 10000 ≤ duration .T_DAC_STARTUP ∧
  (∀ (s : State) (l : ArbLabel) (w : WaitName),
    (l, w) ∈ [(ArbLabel.A4, WaitName.T_REFSEL), (.E8, .T_SRC_SETTLE), (.P8, .T_SRC_SETTLE), (.P10, .T_SRC_SETTLE),
      (.O3, .T_SRC_SETTLE)] →
    s.arb.seq = l → s.now - s.arb.wt < duration w →
    (∀ b y, exec (.cfg b y) s = .next s.advance) ∧ exec .acq s = .next s.advance ∧
      (s.arbMoves = true → exec .rel s = .next s.advance) ∧ ∀ tgt, exec (.sws tgt) s = .next s.advance) ∧
  (∀ (s : State) (l : PsqLabel) (w : WaitName),
    (l, w) ∈ [(PsqLabel.D5, WaitName.T_PDN_SETTLE), (.U5, .T_DAC_STARTUP)] →
    s.psq.seq = l → s.now - s.psq.wt < duration w →
    exec .pdn s = .next s.advance ∧ exec .pup s = .next s.advance ∧
      (s.psqMoves = true → exec .rel s = .next s.advance))

/-- Rule R176: the crystal-ready event sets the latch while the crystal is powered, armed or not, and appends
its event; while it is powered down there is no such step. In the model that move changes nothing (log 8). -/
def Obligations.CrystalReadySetsTheLatch : Prop :=
  ∀ s : State, s.move = .xtal →
    (s.ctl.xtalPdn = 0 →
      step s = .next (State.advance { s with xtalRdyLatch := true, events := s.events ++ [.xtalRdy] })) ∧
    (s.ctl.xtalPdn ≠ 0 → step s = .next s.advance)

/-- Rule R177: under the premise `XtalStarts`, a switch that powers the crystal up from the powered-down state
never raises `ERR_TIMEOUT`: its step X5 goes on to its tail, with the port and the lock as before. Of a switch
that finds the crystal powered nothing is said. The premise over runs is the model's form (log 17, DEDUCED). -/
def Obligations.XtalStartsRulesOutTheTimeout : Prop :=
  ∀ (σ : Nat → State) (p : Port) (i j m : Nat), IsRun σ → SeqInv (σ 0) → XtalStarts σ → PowersUp σ p i j →
    j < m → (∀ l, j < l → l ≤ m → (σ l).arb.seq ∈ [.X4, .X5]) → (σ m).ArbTurn p .X5 →
    (σ m).arb.got = true ∧ (σ (m + 1)).arb.seq ∈ [.E6, .P6] ∧ (σ (m + 1)).port p = (σ m).port p ∧
      (σ (m + 1)).clk.lock = .held p

/-- Rules R179 and R180: time passes by the `TIME` agent alone and never goes back; no wait began in the
future; the crystal-ready wait lasts at most 100 ms, and it ends without the ready event only when all of
them have passed. The unit, a microsecond, is the model's (log 9). That time is held at the end of the
crystal-ready wait until the arbiter has taken its step X4 is the model's form of the bound (log 22, DEDUCED).
For the reset input the statement rests on the model's choices: both `wt` are 0 after it (log 1, DESIGN
CHOICE) and `now` is as before (log 11, DEDUCED). -/
def Obligations.TimeRunsForwardAndTheCrystalWaitIsBounded : Prop :=
  ∀ s t : State, TimeInv s → step s = .next t →
    TimeInv t ∧
    (∀ d, s.move = .time d →
      t.now = s.now + if s.arb.seq = .X4 then min d (s.arb.wt + 100000 - s.now) else d) ∧
    ((∀ d, s.move ≠ .time d) → t.now = s.now) ∧
    (s.arb.seq = .X4 → t.now - s.arb.wt ≤ 100000 ∧
      (t.arb.seq = .X5 → t.arb.got = false → s.now - s.arb.wt = 100000))

/-! ## The step -/

/-- When an engine moves and the command it is due to execute decodes to `i`, the step is `exec i` of that
state, with nothing added; and an instruction placed by `withFetchWord` is the one the next step runs. How a
word is placed is log 6. -/
def Obligations.StepRunsTheDecodedCommand : Prop :=
  (∀ (s : State) (p : Port) (i : Instr), decode (s.port p).cmdLatch = .ok i →
    (s.move = .fu p → (s.port p).pend = .fu → step s = exec i s) ∧
    (s.arbMoves = true → s.clk.lock = .held p → step s = exec i s) ∧
    (s.move = .arb p → s.clk.lock = .free → s.arb.seq = .idle → (s.port p).pend = .arbWait → step s = exec i s) ∧
    (s.psqMoves = true → s.psq.owner = .port p → step s = exec i s) ∧
    (s.psqMoves = true → s.psq.owner = .arb → s.clk.lock = .held p → step s = exec i s) ∧
    (s.move = .psq (.port p) → s.psq.owner = .none → s.psq.seq = .idle → (s.port p).pend = .psqWait →
      step s = exec i s) ∧
    (s.move = .psq .arb → s.psq.owner = .none → s.psq.seq = .idle → s.psq.reqArb = true →
      s.psq.arbReleased = false → s.clk.lock = .held p → step s = exec i s)) ∧
  (∀ (s : State) (w : Nat) (i : Instr), decode (BitVec.ofNat 32 w) = .ok i →
    step (s.withFetchWord 32 w) = exec i (s.withFetchWord 32 w))

/-- An engine with nothing to execute does nothing. The model's form of a disabled move (log 8). -/
def Obligations.NothingDueNothingDone : Prop :=
  ∀ (s : State) (p : Port),
    (s.move = .fu p → (s.port p).pend ≠ .fu → step s = .next s.advance) ∧
    (s.move = .arb p → s.clk.lock = .free → s.arb.seq = .idle → (s.port p).pend ≠ .arbWait →
      step s = .next s.advance) ∧
    (s.move = .psq (.port p) → s.psq.owner = .none → s.psq.seq = .idle → (s.port p).pend ≠ .psqWait →
      step s = .next s.advance) ∧
    (s.move = .psq .arb → s.psq.owner = .none → s.psq.seq = .idle →
      s.psq.reqArb = false ∨ s.psq.arbReleased = true → step s = .next s.advance)

/-- Rules R52 and R180: in a fair run a waiting command is granted its engine, and every command ends, with
`DONE` set, whatever the other port and the environment do; unless the block is reset first. Fairness is a
premise on the environment, whose form is the model's (log 17, DEDUCED). -/
def Obligations.FairRunsGrantAndEndEveryCommand : Prop :=
  ∀ (σ : Nat → State) (n : Nat) (p : Port), FairRun σ → SeqInv (σ 0) →
    (((σ n).port p).pend = .arbWait →
      ∃ k ≥ n, (σ k).move = .rst ∨
        (((σ k).port p).pend = .arbWait ∧ ((σ (k + 1)).port p).pend = .arbRun ∧ (σ (k + 1)).clk.lock = .held p)) ∧
    (((σ n).port p).pend = .psqWait →
      ∃ k ≥ n, (σ k).move = .rst ∨
        (((σ k).port p).pend = .psqWait ∧ ((σ (k + 1)).port p).pend = .psqRun ∧
          (σ (k + 1)).psq.owner = .port p)) ∧
    (((σ n).port p).status.busy = true →
      ∃ k ≥ n, (σ k).move = .rst ∨
        (((σ k).port p).status.busy = true ∧ ((σ (k + 1)).port p).status.busy = false ∧
          ((σ (k + 1)).port p).status.done = true))

/-! ## Invariants -/

/-- The reset state meets every invariant. That `TimeInv` holds rests on the model's values of both `wt` (log
1, DESIGN CHOICE) and of `now` (log 2, DESIGN CHOICE), which the spec leaves open. -/
def Obligations.ResetMeetsTheInvariants : Prop :=
  SeqInv State.reset ∧ TargetInv State.reset ∧ CountInv State.reset ∧ ClockInv State.reset ∧
    PathInv State.reset ∧ OutputInv State.reset ∧ TimeInv State.reset ∧ Memory.wf State.reset.store = true

/-- In a state that meets the sequencing invariant the machine never stops, and the next state meets it:
each engine is inside the listing of the command of the one port that holds it (rules R14, R20, R25, R53,
R54, R81, R82, R151). -/
def Obligations.SequencingIsKeptAndNothingStops : Prop :=
  ∀ s : State, SeqInv s → ∃ t, step s = .next t ∧ SeqInv t

/-- Rules R53, R82: the lock passes from a port only by reset or by the step of the arbiter that ends that
port's command, which reports in the same step. -/
def Obligations.LockFreedOnlyAtTheEnd : Prop :=
  ∀ (s t : State) (p : Port), SeqInv s → s.clk.lock = .held p → step s = .next t → t.clk.lock ≠ .held p →
    s.move = .rst ∨
      (s.arbMoves = true ∧ t.clk.lock = .free ∧ t.arb.seq = .idle ∧ (t.port p).pend = .none ∧
        (t.port p).status.busy = false ∧ (t.port p).status.done = true ∧
        ∃ es code, t.events = s.events ++ es ++ [.complete p code])

/-- Rules R90 to R101: at each label of a listing the count and the target are what the listing has
tested. -/
def Obligations.TargetAndCountAreKept : Prop :=
  ∀ s t : State, TargetInv s → CountInv s → step s = .next t → TargetInv t ∧ CountInv t

/-- Rules R96 and R100 (with rule R168): the source switch inside `REL` never raises, and the one inside
`ACQ` never raises `INVALID_SOURCE`. -/
def Obligations.SwitchErrorsPerCaller : Prop :=
  ∀ (s : State) (p : Port) (l : ArbLabel), TargetInv s → s.ArbTurn p l → l ∈ switchLabels →
    (s.arb.ret = .L5 → ∃ t, exec .rel s = .next t ∧ t.port p = s.port p ∧ t.clk.lock = .held p) ∧
    (s.arb.ret = .A5 → ∃ t, exec .acq s = .next t ∧
      (t.port p = s.port p ∨ l = .X5 ∧ s.arb.got = false ∧ (t.port p).status.ecode = 1))

/-- Rule R28, the clock half, in the form every step keeps: as long as no `SWS` is issued (rule R61: a word
written to `CMD` of an idle port), whenever the lock is free the count is 0 exactly when the clock source is
the ring oscillator. -/
def Obligations.CountAndSourceAgree : Prop :=
  ∀ s t : State, SeqInv s → TargetInv s → CountInv s → ClockInv s → s.issuesSws = false →
    step s = .next t → ClockInv t ∧ (t.clk.lock = .free → (t.clk.reqCnt = 0 ↔ t.clk.clkSrc = .ringOscillator))

/-- Rule R28, the power-down half, in the form every step keeps: as long as the host keeps the ordering of
rule R196 for `PUP`, the path is down whenever no request is held. -/
def Obligations.PathIsDownWithoutRequests : Prop :=
  ∀ s t : State, SeqInv s → CountInv s → PathInv s → s.pupCovered → step s = .next t →
    PathInv t ∧ (t.clk.reqCnt = 0 → t.ctl.pdnOut = 1 ∧ t.ctl.pdnPath = 1)

/-- Rules R24 and R175: the board selects are never both asserted, and the crystal-ready interrupt is armed
exactly between X3 and X5; every step keeps this. -/
def Obligations.OutputsAreKept : Prop :=
  ∀ s t : State, OutputInv s → step s = .next t → OutputInv t

/-- Rules R80 and R150: only a step of the arbiter, or reset, changes the ClockState, the board selects and
the arbiter's control fields, and only a step of the power sequencer, or reset, changes the others. By
rule R204 `MUTE` is never cleared, and `ASP_3ST` never set again, but by reset. -/
def Obligations.EachControlFieldHasOneWriter : Prop :=
  ∀ s t : State, SeqInv s → step s = .next t → s.move ≠ .rst →
    (s.arbMoves = false →
      t.clk = s.clk ∧ t.arb = s.arb ∧ t.sel0 = s.sel0 ∧ t.sel1 = s.sel1 ∧ t.ctl.xtalPdn = s.ctl.xtalPdn ∧
        t.ctl.xtalRdyIe = s.ctl.xtalRdyIe ∧ t.ctl.mclkSrcSel = s.ctl.mclkSrcSel ∧
        t.ctl.mclkInt = s.ctl.mclkInt ∧ t.ctl.pllPdn = s.ctl.pllPdn) ∧
    (s.psqMoves = false →
      t.ctl.mute = s.ctl.mute ∧ t.ctl.pdnDoneInh = s.ctl.pdnDoneInh ∧ t.ctl.pdnOut = s.ctl.pdnOut ∧
        t.ctl.pdnPath = s.ctl.pdnPath ∧ t.ctl.asp3st = s.ctl.asp3st ∧ t.ctl.scratchA = s.ctl.scratchA ∧
        t.ctl.scratchB = s.ctl.scratchB) ∧
    (s.ctl.mute = 1 → t.ctl.mute = 1) ∧ (s.ctl.asp3st = 0 → t.ctl.asp3st = 0)

/-- Rules R128 and R198: while a request is held the reference does not change. -/
def Obligations.ReferenceFixedWhileCounted : Prop :=
  ∀ s t : State, CountInv s → s.clk.reqCnt ≠ 0 → s.move ≠ .rst → step s = .next t → t.clk.refSel = s.clk.refSel

/-! ## Whole commands, run alone -/

/-- Rules R85, R86: a `CFG`, run with nobody else moving. With no request held both parameters are stored;
with one held it reports `CFG_IN_USE`. Nothing else of the block changes but the port's flags and the history
(the schedule and the counter beside it, the model's own, move on: log 8). -/
def Obligations.CfgRun : Prop :=
  ∀ (s : State) (p : Port) (b : BitVec 2) (y : Bit), s.clk.lock = .free → s.arb.seq = .idle →
    (s.port p).pend = .arbWait → decode (s.port p).cmdLatch = .ok (.cfg b y) →
    (s.clk.reqCnt = 0 → ∃ t, runFor 3 { s with sched := List.replicate 3 (.arb p) } = .next t ∧
      t.events = s.events ++ [.complete p 0] ∧ t.clk = { s.clk with pllBypass := y, xtalBias := b } ∧
      t.arb = s.arb ∧ t.psq = s.psq ∧ t.ctl = s.ctl ∧ t.sel0 = s.sel0 ∧ t.sel1 = s.sel1 ∧ t.now = s.now ∧
      t.xtalRdyLatch = s.xtalRdyLatch ∧ t.rdata = s.rdata ∧
      t.port p = { s.port p with status := { (s.port p).status with busy := false, done := true }, pend := .none } ∧
      t.port (otherPort p) = s.port (otherPort p) ∧ ∀ a, Memory.read t.store a = Memory.read s.store a) ∧
    (s.clk.reqCnt ≠ 0 → ∃ t, runFor 2 { s with sched := List.replicate 2 (.arb p) } = .next t ∧
      t.events = s.events ++ [.complete p 7] ∧ t.clk = s.clk ∧
      t.arb = s.arb ∧ t.psq = s.psq ∧ t.ctl = s.ctl ∧ t.sel0 = s.sel0 ∧ t.sel1 = s.sel1 ∧ t.now = s.now ∧
      t.xtalRdyLatch = s.xtalRdyLatch ∧ t.rdata = s.rdata ∧
      t.port p = { s.port p with
        status := { (s.port p).status with busy := false, done := true, err := true, ecode := 7, einfo := 6 },
        pend := .none } ∧
      t.port (otherPort p) = s.port (otherPort p) ∧ ∀ a, Memory.read t.store a = Memory.read s.store a)

/-- Rules R88, R104: an `ACQ` at count 0 with the PLL bypassed and the crystal unused, run with nobody else
moving: the events in order, the end state, and no byte of the register store touched but those of the
four fields it updates. -/
def Obligations.AcqRunWithCrystalUnused : Prop :=
  ∀ (s : State) (p : Port) (k : Bit), s.clk.lock = .free → s.arb.seq = .idle → (s.port p).pend = .arbWait →
    decode (s.port p).cmdLatch = .ok .acq → s.clk.reqCnt = 0 → s.clk.pllBypass = 1 → s.clk.xtalBias = 0 →
    s.clk.clkSrc ≠ .external → pickReference (s.port p).rateLatch.toNat = some k →
    ∃ t, runFor 18 { s with
        sched := List.replicate 5 (.arb p) ++ [.time (duration .T_REFSEL)] ++ List.replicate 6 (.arb p) ++
          [.time (duration .T_SRC_SETTLE)] ++ List.replicate 5 (.arb p) } = .next t ∧
      t.events = s.events ++ [.boardSel k, .wait .T_REFSEL, .rsUpdate .XTAL_PDN 1, .rsUpdate .MCLK_SRC_SEL 0,
        .rsUpdate .MCLK_INT (k.setWidth 8), .wait .T_SRC_SETTLE, .rsUpdate .PLL_PDN 1, .complete p 0] ∧
      t.clk = { s.clk with clkSrc := .external, refSel := k, reqCnt := 1 } ∧
      t.ctl = { s.ctl with xtalPdn := 1, mclkSrcSel := 0, mclkInt := k, pllPdn := 1 } ∧
      t.sel0 = (k == 0) ∧ t.sel1 = (k == 1) ∧ t.arb.seq = .idle ∧ t.psq = s.psq ∧
      t.port p = { s.port p with status := { (s.port p).status with busy := false, done := true }, pend := .none } ∧
      t.port (otherPort p) = s.port (otherPort p) ∧
      ∀ a, a ∉ [(rsMap .XTAL_PDN).addr.toNat, (rsMap .MCLK_SRC_SEL).addr.toNat, (rsMap .MCLK_INT).addr.toNat,
        (rsMap .PLL_PDN).addr.toNat] → Memory.read t.store a = Memory.read s.store a

/-- Rules R88, R102, R103: the same with the crystal used and signalling ready while the arbiter waits. -/
def Obligations.AcqRunWithCrystalReady : Prop :=
  ∀ (s : State) (p : Port) (k : Bit), s.clk.lock = .free → s.arb.seq = .idle → (s.port p).pend = .arbWait →
    decode (s.port p).cmdLatch = .ok .acq → s.clk.reqCnt = 0 → s.clk.pllBypass = 1 → s.clk.xtalBias ≠ 0 →
    s.clk.clkSrc ≠ .external → pickReference (s.port p).rateLatch.toNat = some k →
    ∃ t, runFor 23 { s with
        sched := List.replicate 5 (.arb p) ++ [.time (duration .T_REFSEL)] ++ List.replicate 6 (.arb p) ++
          [.xtal] ++ List.replicate 4 (.arb p) ++ [.time (duration .T_SRC_SETTLE)] ++
          List.replicate 5 (.arb p) } = .next t ∧
      t.events = s.events ++ [.boardSel k, .wait .T_REFSEL, .rsUpdate .XTAL_PDN 0, .rsUpdate .XTAL_RDY_IE 1,
        .xtalRdy, .rsUpdate .XTAL_RDY_IE 0, .rsUpdate .MCLK_SRC_SEL 0, .rsUpdate .MCLK_INT (k.setWidth 8),
        .wait .T_SRC_SETTLE, .rsUpdate .PLL_PDN 1, .complete p 0] ∧
      t.clk = { s.clk with clkSrc := .external, refSel := k, reqCnt := 1 } ∧
      t.ctl = { s.ctl with xtalPdn := 0, xtalRdyIe := 0, mclkSrcSel := 0, mclkInt := k, pllPdn := 1 } ∧
      t.arb.seq = .idle ∧ t.psq = s.psq ∧ t.xtalRdyLatch = true ∧
      t.port p = { s.port p with status := { (s.port p).status with busy := false, done := true }, pend := .none } ∧
      t.port (otherPort p) = s.port (otherPort p)

/-- Rule R112 (b), with R88 (c): an `ACQ` whose crystal does not signal within 100 ms ends with `ERR_TIMEOUT`;
the count, the source and the select field are as before, the crystal stays powered, the interrupt is
disarmed, and the reference and the board select hold the new choice. -/
def Obligations.AcqRunTimesOut : Prop :=
  ∀ (s : State) (p : Port) (k : Bit), s.clk.lock = .free → s.arb.seq = .idle → (s.port p).pend = .arbWait →
    decode (s.port p).cmdLatch = .ok .acq → s.clk.reqCnt = 0 → s.clk.pllBypass = 1 → s.clk.xtalBias ≠ 0 →
    s.clk.clkSrc ≠ .external → pickReference (s.port p).rateLatch.toNat = some k →
    ∃ t, runFor 15 { s with
        sched := List.replicate 5 (.arb p) ++ [.time (duration .T_REFSEL)] ++ List.replicate 6 (.arb p) ++
          [.time xtalTimeout] ++ List.replicate 2 (.arb p) } = .next t ∧
      t.events = s.events ++ [.boardSel k, .wait .T_REFSEL, .rsUpdate .XTAL_PDN 0, .rsUpdate .XTAL_RDY_IE 1,
        .rsUpdate .XTAL_RDY_IE 0, .complete p 1] ∧
      t.clk = { s.clk with refSel := k } ∧ t.ctl = { s.ctl with xtalPdn := 0, xtalRdyIe := 0 } ∧
      t.sel0 = (k == 0) ∧ t.sel1 = (k == 1) ∧ t.xtalRdyLatch = false ∧ t.arb.seq = .idle ∧
      t.port p = { s.port p with
        status := { (s.port p).status with busy := false, done := true, err := true, ecode := 1, einfo := 1 },
        pend := .none } ∧
      t.port (otherPort p) = s.port (otherPort p)

/-- Rules R96, R97: a `REL` at count 1 from a source other than the ring oscillator, run with nobody else
moving: the power-down first, then the count, then the switch. The bits between the two engines are log 7. -/
def Obligations.RelRunToZero : Prop :=
  ∀ (s : State) (p : Port), s.clk.lock = .free → s.arb.seq = .idle → (s.port p).pend = .arbWait →
    decode (s.port p).cmdLatch = .ok .rel → s.clk.reqCnt = 1 → s.clk.clkSrc ≠ .ringOscillator →
    s.psq.seq = .idle → s.psq.owner = .none → s.psq.reqArb = false → s.psq.arbReleased = false →
    ∃ t, runFor 23 { s with
        sched := List.replicate 4 (.arb p) ++ List.replicate 5 (.psq .arb) ++ [.time (duration .T_PDN_SETTLE)] ++
          List.replicate 2 (.psq .arb) ++ List.replicate 7 (.arb p) ++ [.time (duration .T_SRC_SETTLE)] ++
          List.replicate 3 (.arb p) } = .next t ∧
      t.events = s.events ++ [.rsUpdate .MUTE 1, .rsUpdate .PDN_DONE_INH 1, .rsUpdate .PDN_OUT 1,
        .wait .T_PDN_SETTLE, .rsUpdate .PDN_PATH 1, .rsUpdate .PDN_DONE_INH 0, .rsUpdate .MCLK_SRC_SEL 2,
        .rsUpdate .MCLK_INT 0, .wait .T_SRC_SETTLE, .rsUpdate .XTAL_PDN 1, .rsUpdate .PLL_PDN 1, .complete p 0] ∧
      t.clk = { s.clk with clkSrc := .ringOscillator, reqCnt := 0 } ∧
      t.ctl = { s.ctl with mute := 1, pdnDoneInh := 0, pdnOut := 1, pdnPath := 1, mclkSrcSel := 2, mclkInt := 0,
                           xtalPdn := 1, pllPdn := 1 } ∧
      t.arb.seq = .idle ∧ t.psq.seq = .idle ∧ t.psq.owner = .none ∧ t.psq.reqArb = false ∧
      t.psq.arbReleased = false ∧ t.sel0 = s.sel0 ∧ t.sel1 = s.sel1 ∧
      t.port p = { s.port p with status := { (s.port p).status with busy := false, done := true }, pend := .none } ∧
      t.port (otherPort p) = s.port (otherPort p)

/-- Rules R98, R101, R108: an `SWS` to the PLL with the crystal unused, run with nobody else moving. -/
def Obligations.SwsRunToPll : Prop :=
  ∀ (s : State) (p : Port), s.clk.lock = .free → s.arb.seq = .idle → (s.port p).pend = .arbWait →
    decode (s.port p).cmdLatch = .ok (.sws 1) → s.clk.xtalBias = 0 → s.clk.clkSrc ≠ .pll →
    ∃ t, runFor 13 { s with
        sched := List.replicate 7 (.arb p) ++ [.time (duration .T_SRC_SETTLE)] ++ List.replicate 2 (.arb p) ++
          [.time (duration .T_SRC_SETTLE)] ++ List.replicate 2 (.arb p) } = .next t ∧
      t.events = s.events ++ [.rsUpdate .XTAL_PDN 1, .rsUpdate .PLL_PDN 0, .wait .T_SRC_SETTLE,
        .rsUpdate .MCLK_SRC_SEL 1, .rsUpdate .MCLK_INT (s.clk.refSel.setWidth 8), .wait .T_SRC_SETTLE,
        .complete p 0] ∧
      t.clk = { s.clk with clkSrc := .pll } ∧
      t.ctl = { s.ctl with xtalPdn := 1, pllPdn := 0, mclkSrcSel := 1, mclkInt := s.clk.refSel } ∧
      t.sel0 = s.sel0 ∧ t.sel1 = s.sel1 ∧ t.arb.seq = .idle ∧ t.psq = s.psq ∧
      t.port p = { s.port p with status := { (s.port p).status with busy := false, done := true }, pend := .none } ∧
      t.port (otherPort p) = s.port (otherPort p)

/-- Rules R152, R153, R155, R156: a `PDN` and a `PUP`, each run with nobody else moving. `PUP` does not clear
`MUTE`. An arbiter inside its crystal-ready wait may stand still so long only if the 100 ms of that wait leave
room for the sequencer's (rule R180, log 22); the single steps need no such room. -/
def Obligations.SequencerRuns : Prop :=
  ∀ (s : State) (p : Port), s.psq.seq = .idle → s.psq.owner = .none → (s.port p).pend = .psqWait →
    (decode (s.port p).cmdLatch = .ok .pdn →
      (s.arb.seq = .X4 → s.now + duration .T_PDN_SETTLE ≤ s.arb.wt + xtalTimeout) →
      ∃ t, runFor 8 { s with
          sched := List.replicate 5 (.psq (.port p)) ++ [.time (duration .T_PDN_SETTLE)] ++
            List.replicate 2 (.psq (.port p)) } = .next t ∧
        t.events = s.events ++ [.rsUpdate .MUTE 1, .rsUpdate .PDN_DONE_INH 1, .rsUpdate .PDN_OUT 1,
          .wait .T_PDN_SETTLE, .rsUpdate .PDN_PATH 1, .rsUpdate .PDN_DONE_INH 0, .complete p 0] ∧
        t.ctl = { s.ctl with mute := 1, pdnDoneInh := 0, pdnOut := 1, pdnPath := 1 } ∧
        t.clk = s.clk ∧ t.arb = s.arb ∧ t.psq.seq = .idle ∧ t.psq.owner = .none ∧
        t.port p =
          { s.port p with status := { (s.port p).status with busy := false, done := true }, pend := .none } ∧
        t.port (otherPort p) = s.port (otherPort p)) ∧
    (decode (s.port p).cmdLatch = .ok .pup →
      (s.arb.seq = .X4 → s.now + duration .T_DAC_STARTUP ≤ s.arb.wt + xtalTimeout) →
      ∃ t, runFor 7 { s with
          sched := List.replicate 5 (.psq (.port p)) ++ [.time (duration .T_DAC_STARTUP)] ++
            [.psq (.port p)] } = .next t ∧
        t.events = s.events ++ [.rsUpdate .ASP_3ST 0, .rsUpdate .SCRATCH_A Config.kA,
          .rsUpdate .SCRATCH_B Config.kB, .rsUpdate .PDN_PATH 0, .rsUpdate .PDN_OUT 0, .wait .T_DAC_STARTUP,
          .rsUpdate .SCRATCH_A 0, .rsUpdate .SCRATCH_B 0, .complete p 0] ∧
        t.ctl = { s.ctl with asp3st := 0, scratchA := 0, scratchB := 0, pdnPath := 0, pdnOut := 0 } ∧
        t.clk = s.clk ∧ t.arb = s.arb ∧ t.psq.seq = .idle ∧ t.psq.owner = .none ∧
        t.port p =
          { s.port p with status := { (s.port p).status with busy := false, done := true }, pend := .none } ∧
        t.port (otherPort p) = s.port (otherPort p))
end

