-- ==== Sys2Proof/Laws/Bits.lean ====
section
/-! SUPPORT. Fields of words as numbers: what an append and an extraction are, so that a claim about an
encoding or a read-back word is linear arithmetic. -/

namespace Sys2Proof

/-- The number of an append: the high part above the low part. -/
theorem toNat_append_add {m n : Nat} (a : BitVec m) (b : BitVec n) :
    (a ++ b).toNat = a.toNat * 2 ^ n + b.toNat := by
  rw [BitVec.toNat_append, ← Nat.shiftLeft_add_eq_or_of_lt b.isLt, Nat.shiftLeft_eq]

/-- The number of a field: quotient and remainder by powers of two. -/
theorem toNat_extractLsb' {m : Nat} (a : BitVec m) (lo n : Nat) :
    (a.extractLsb' lo n).toNat = a.toNat / 2 ^ lo % 2 ^ n := by
  rw [BitVec.extractLsb'_toNat, Nat.shiftRight_eq_div_pow]

/-- The number of a field of a command word (rules R6, R69). -/
theorem toNat_field (w : Word) (lo n : Nat) : (field w lo n).toNat = w.toNat / 2 ^ lo % 2 ^ n :=
  toNat_extractLsb' w lo n

/-- A field of a word, from its number. -/
theorem extractLsb'_eq_of_toNat {m lo n : Nat} {a : BitVec m} {b : BitVec n}
    (h : a.toNat / 2 ^ lo % 2 ^ n = b.toNat) : a.extractLsb' lo n = b := by
  rw [← BitVec.toNat_inj, toNat_extractLsb', h]

/-- A bit as a digit of the number. -/
theorem getLsbD_eq_decide {m : Nat} (a : BitVec m) (i : Nat) : a.getLsbD i = decide (a.toNat / 2 ^ i % 2 = 1) := by
  rw [BitVec.getLsbD, Nat.testBit_eq_decide_div_mod_eq]

/-- A flag as a number. -/
theorem toNat_bit (b : Bool) : (Machine.bit b).toNat = if b then 1 else 0 := by cases b <;> rfl

/-- No bit of `w` is 1 where the mask `m` has a 1. -/
theorem and_eq_zero_iff (w m : Word) : w &&& m = 0 ↔ ∀ i, i < 32 → m.getLsbD i = true → w.getLsbD i = false := by
  constructor
  · intro h i _ hm
    have := congrArg (·.getLsbD i) h
    simpa [hm] using this
  · intro h
    apply BitVec.eq_of_getLsbD_eq
    intro i hi
    have := h i hi
    simp only [BitVec.getLsbD_and, BitVec.ofNat_eq_ofNat, BitVec.getLsbD_zero]
    cases hm : m.getLsbD i <;> simp_all

/-- A field is zero when each of its bits is. -/
theorem field_eq_zero_iff (w : Word) (lo n : Nat) :
    field w lo n = 0 ↔ ∀ i, i < n → w.getLsbD (lo + i) = false := by
  constructor
  · intro h i hi
    have := congrArg (·.getLsbD i) h
    simpa [field, hi] using this
  · intro h
    apply BitVec.eq_of_getLsbD_eq
    intro i hi
    simpa [field, hi] using h i hi

/-- A mask that covers one field tests that field. -/
theorem and_mask_eq_zero_iff (w m : Word) (lo n : Nat)
    (hm : ∀ i < 32, m.getLsbD i = decide (lo ≤ i ∧ i < lo + n)) (hn : lo + n ≤ 32) :
    w &&& m = 0 ↔ field w lo n = 0 := by
  rw [and_eq_zero_iff, field_eq_zero_iff]
  constructor
  · intro h i hi
    exact h (lo + i) (by omega) (by rw [hm _ (by omega)]; simp; omega)
  · intro h i hi hmi
    rw [hm i hi] at hmi
    simp at hmi
    have := h (i - lo) (by omega)
    rwa [show lo + (i - lo) = i by omega] at this

/-- The reserved test of the decoder. -/
theorem whenReservedZero_ok {n : Nat} {r : BitVec n} {i j : Instr} :
    whenReservedZero r i = .ok j ↔ r = 0 ∧ j = i := by
  unfold whenReservedZero
  split
  · rename_i h
    exact ⟨fun e => ⟨h, by cases e; rfl⟩, fun e => by rw [e.2]⟩
  · rename_i h
    exact ⟨(fun e => by cases e), fun e => absurd e.1 h⟩

end Sys2Proof
end

