-- ==== Sys2Proof/Laws/Ops.lean ====
section
/-! SUPPORT. For each shared operation one lemma that says once everything it can do: the answer of a
meaning, the port an engine works for, the moves of the engines, the host's accesses, the ends of commands. -/

namespace Sys2Proof.Machine

/-! ### Answers -/

/-- An answer is a next state exactly when the meaning reached one; the move has then been made. -/
theorem answer_next {r : Except Fault State} {t : State} : answer r = .next t ↔ ∃ u, r = .ok u ∧ t = u.advance := by
  cases r <;> simp [answer, eq_comm]

@[simp] theorem answer_ok (u : State) : answer (.ok u) = .next u.advance := rfl

/-- One step of a run. -/
theorem runFor_succ {n : Nat} {s t : State} (h : step s = .next t) : runFor (n + 1) s = runFor n t := by
  rw [runFor, h]

/-! ### Whose command runs -/

/-- An arbiter's turn is a move of the arbiter. -/
theorem State.arbMoves_iff {s : State} : s.arbMoves = true ↔ ∃ p, s.move = .arb p := by
  unfold State.arbMoves
  cases s.move <;> simp

/-- A sequencer's turn is a move of the sequencer. -/
theorem State.psqMoves_iff {s : State} : s.psqMoves = true ↔ ∃ r, s.move = .psq r := by
  unfold State.psqMoves
  cases s.move <;> simp

theorem State.execPort_fu {s : State} {p : Port} (h : s.move = .fu p) : s.execPort = p := by
  simp [State.execPort, h]

/-- The arbiter executes the command of the port holding the lock. -/
theorem State.execPort_arb {s : State} {p : Port} (hm : s.arbMoves = true) (hl : s.clk.lock = .held p) :
    s.execPort = p := by
  obtain ⟨q, hq⟩ := State.arbMoves_iff.mp hm
  simp [State.execPort, State.execPort.lockHolder, hq, hl]

/-- With the lock free the arbiter executes the command of the port it is offered. -/
theorem State.execPort_arb_free {s : State} {p : Port} (hm : s.move = .arb p) (hl : s.clk.lock = .free) :
    s.execPort = p := by
  simp [State.execPort, State.execPort.lockHolder, hm, hl]

/-- The sequencer executes the command of its owner. -/
theorem State.execPort_psq {s : State} {p : Port} (hm : s.psqMoves = true) (ho : s.psq.owner = .port p) :
    s.execPort = p := by
  obtain ⟨q, hq⟩ := State.psqMoves_iff.mp hm
  simp [State.execPort, hq, ho]

/-- With no owner the sequencer executes the command of the port it is offered. -/
theorem State.execPort_psq_free {s : State} {p : Port} (hm : s.move = .psq (.port p)) (ho : s.psq.owner = .none) :
    s.execPort = p := by
  simp [State.execPort, hm, ho]

/-! ### The engines' moves -/

/-- A move of the arbiter: nothing inside a settle wait, the start when idle, else the step of the label. -/
theorem arbCommand_next {l : ArbLabel} {n : Except Fault State} {s t : State} (h : arbCommand l n s = .next t) :
    (s.arbReady = false ∧ t = s.advance) ∨
      (s.arb.seq = .idle ∧ t = (s.arbStart s.execPort l).advance) ∨
      (s.arbReady = true ∧ s.arb.seq ≠ .idle ∧ ∃ u, n = .ok u ∧ t = u.advance) := by
  obtain ⟨u, hu, rfl⟩ := answer_next.mp h
  split at hu
  · split at hu
    · cases hu; exact .inr (.inl ⟨‹_›, rfl⟩)
    · exact .inr (.inr ⟨‹_›, ‹_›, u, hu, rfl⟩)
  · cases hu; exact .inl ⟨Bool.not_eq_true _ ▸ ‹¬ _›, rfl⟩

/-- A move of the sequencer: the same. -/
theorem psqCommand_next {b : State} {n : Except Fault State} {s t : State} (h : psqCommand b n s = .next t) :
    (s.psqReady = false ∧ t = s.advance) ∨
      (s.psq.seq = .idle ∧ t = b.advance) ∨
      (s.psqReady = true ∧ s.psq.seq ≠ .idle ∧ ∃ u, n = .ok u ∧ t = u.advance) := by
  obtain ⟨u, hu, rfl⟩ := answer_next.mp h
  split at hu
  · split at hu
    · cases hu; exact .inr (.inl ⟨‹_›, rfl⟩)
    · exact .inr (.inr ⟨‹_›, ‹_›, u, hu, rfl⟩)
  · cases hu; exact .inl ⟨Bool.not_eq_true _ ▸ ‹¬ _›, rfl⟩

/-- Outside a settle wait the arbiter takes the step of its label. -/
theorem arbCommand_step {l : ArbLabel} {n : Except Fault State} {s : State} (hr : s.arbReady = true)
    (hs : s.arb.seq ≠ .idle) : arbCommand l n s = answer n := by
  simp [arbCommand, hr, hs]

/-- Outside a settle wait the sequencer takes the step of its label. -/
theorem psqCommand_step {b : State} {n : Except Fault State} {s : State} (hr : s.psqReady = true)
    (hs : s.psq.seq ≠ .idle) : psqCommand b n s = answer n := by
  simp [psqCommand, hr, hs]

/-- `REL` on the arbiter. -/
theorem execRel_arb {s : State} (h : s.psqMoves = false) :
    execRel s = arbCommand .L0 (s.relStep s.execPort) s := by
  unfold State.psqMoves at h
  unfold execRel
  split <;> simp_all

/-- `REL` on the sequencer. -/
theorem execRel_psq {s : State} (h : s.psqMoves = true) :
    execRel s = psqCommand s.psqStartArb s.powerDownStep s := by
  obtain ⟨r, hr⟩ := State.psqMoves_iff.mp h
  simp [execRel, hr]

theorem State.psqMoves_of_arb {s : State} (h : s.arbMoves = true) : s.psqMoves = false := by
  obtain ⟨q, hq⟩ := State.arbMoves_iff.mp h
  simp [State.psqMoves, hq]

/-- The arbiter may take its step when the settle wait before it, if any, is over. -/
theorem State.arbReady_of_waits {s : State}
    (h : ∀ w, arbWaitBefore s.arb.seq = some w → duration w ≤ s.now - s.arb.wt) : s.arbReady = true := by
  unfold State.arbReady
  split
  · rw [waitOver_iff]; exact h _ ‹_›
  · rfl

/-- The same for the sequencer. -/
theorem State.psqReady_of_waits {s : State}
    (h : ∀ w, psqWaitBefore s.psq.seq = some w → duration w ≤ s.now - s.psq.wt) : s.psqReady = true := by
  unfold State.psqReady
  split
  · rw [waitOver_iff]; exact h _ ‹_›
  · rfl

/-! ### The host's accesses and the crystal -/

/-- The offset of a register names it (rules R12, R26, R46). -/
theorem slaveReg_offset (r : SlaveReg) : slaveReg 4 r.offset = some r := by
  cases r with
  | port p r => cases p <;> cases r <;> rfl
  | _ => rfl

/-- What a host access leaves alone: everything but the ports, the event history and the last word read. -/
theorem State.hostAccess_kept (s : State) (a : HostAccess) :
    (s.hostAccess a).clk = s.clk ∧ (s.hostAccess a).arb = s.arb ∧ (s.hostAccess a).psq = s.psq ∧
      (s.hostAccess a).ctl = s.ctl ∧ (s.hostAccess a).sel0 = s.sel0 ∧ (s.hostAccess a).sel1 = s.sel1 ∧
      (s.hostAccess a).xtalRdyLatch = s.xtalRdyLatch ∧ (s.hostAccess a).now = s.now ∧
      (s.hostAccess a).store = s.store := by
  cases a with
  | read => simp [State.hostAccess]
  | write z o v =>
    simp only [State.hostAccess, State.slaveWrite]
    split
    · simp only [State.issue]
      split <;> simp
    · simp
    · simp
    · simp

/-- What the crystal-ready event leaves alone: everything but the latch and the event history. -/
theorem State.xtalReady_kept (s : State) :
    s.xtalReady.clk = s.clk ∧ s.xtalReady.arb = s.arb ∧ s.xtalReady.psq = s.psq ∧ s.xtalReady.ctl = s.ctl ∧
      s.xtalReady.sel0 = s.sel0 ∧ s.xtalReady.sel1 = s.sel1 ∧ s.xtalReady.now = s.now ∧
      s.xtalReady.p0 = s.p0 ∧ s.xtalReady.p1 = s.p1 ∧ s.xtalReady.store = s.store := by
  unfold State.xtalReady
  split <;> simp

/-! ### Starts and ends -/

/-- The start of an arbiter command, where it is enabled (rule R81). -/
theorem State.arbStart_eq {s : State} {p : Port} (l : ArbLabel) (hl : s.clk.lock = .free)
    (hp : (s.port p).pend = .arbWait) :
    s.arbStart p l = { (s.setPort p { s.port p with pend := .arbRun }) with
      clk := { s.clk with lock := .held p }, arb := { s.arb with seq := l } } := by
  unfold State.arbStart
  rw [if_pos ⟨hl, hp⟩]
  simp

/-- What the start of a sequence leaves alone (rule R151). -/
theorem State.psqStart_kept (s : State) (o : PsqOwner) (l : PsqLabel) :
    (s.psqStart o l).clk = s.clk ∧ (s.psqStart o l).arb = s.arb ∧ (s.psqStart o l).ctl = s.ctl ∧
      (s.psqStart o l).sel0 = s.sel0 ∧ (s.psqStart o l).sel1 = s.sel1 ∧ (s.psqStart o l).now = s.now ∧
      (s.psqStart o l).store = s.store ∧ (s.psqStart o l).events = s.events ∧
      (s.psqStart o l).psq = { s.psq with seq := l, owner := o } := by
  unfold State.psqStart
  cases o <;> simp

/-- The end of a sequence (rule R151): `done` for a port, the release of L2 for the arbiter. -/
theorem State.psqEnd_next {s u : State} (h : s.psqEnd = .ok u) :
    (∃ p, s.psq.owner = .port p ∧
        u = ({ s with psq := { s.psq with seq := .idle, owner := .none } }).finish .psq p) ∨
      (s.psq.owner = .arb ∧
        u = { s with psq := { s.psq with seq := .idle, owner := .none, arbReleased := true } }) := by
  unfold State.psqEnd at h
  dsimp only at h
  split at h <;> cases h
  · exact .inl ⟨_, ‹_›, rfl⟩
  · exact .inr ⟨‹_›, rfl⟩

/-- The end of `FMT` and `DIVL` with results (rules R22, R130). -/
theorem endLookup_ok (s : State) (p : Port) (r : LookupResult) :
    endLookup p s (.ok r) = (s.setPort p { s.port p with
      num := r.num, den := r.den, frm := r.frm, resBclk := r.bclk,
      status := (s.port p).status.ended, pend := .none }).log (.complete p 0) := by
  cases p <;> rfl

/-- The end of `FMT` and `DIVL` with an error (rule R170). -/
theorem endLookup_error (s : State) (p : Port) (e : CmdError) :
    endLookup p s (.error e) = (s.setPort p { s.port p with
      num := 0, den := 0, frm := FrameResult.zero, resBclk := 0,
      status := (s.port p).status.failed e, pend := .none }).log (.complete p e.ecode) := by
  cases p <;> rfl

/-- A command of a format unit ends in its one step (rule R120): it rewrites its own port, reports, and
touches nothing else. -/
theorem execFu_next {i : Instr} {s t : State} (hi : instrEngine i = .fu) (h : exec i s = .next t) :
    ∃ (q : PortState) (code : BitVec 4), q.pend = .none ∧ q.status.busy = false ∧ q.status.done = true ∧
      q.cmdLatch = (s.port s.execPort).cmdLatch ∧
      t = ((s.setPort s.execPort q).log (.complete s.execPort code)).advance := by
  have hend : ∀ p r, ∃ (q : PortState) (code : BitVec 4), q.pend = .none ∧ q.status.busy = false ∧
      q.status.done = true ∧ q.cmdLatch = (s.port p).cmdLatch ∧
      endLookup p s r = (s.setPort p q).log (.complete p code) := by
    intro p r
    cases r with
    | ok r =>
      exact ⟨{ s.port p with
        num := r.num, den := r.den, frm := r.frm, resBclk := r.bclk,
        status := (s.port p).status.ended, pend := .none }, 0, rfl, rfl, rfl, rfl, endLookup_ok s p r⟩
    | error e =>
      exact ⟨{ s.port p with
        num := 0, den := 0, frm := FrameResult.zero, resBclk := 0,
        status := (s.port p).status.failed e, pend := .none }, e.ecode, rfl, rfl, rfl, rfl, endLookup_error s p e⟩
  cases i <;> cases hi <;> cases h
  · exact ⟨{ s.port s.execPort with status := (s.port s.execPort).status.ended, pend := .none }, 0, rfl, rfl, rfl,
      rfl, rfl⟩
  · rename_i f m
    refine ⟨{ s.port s.execPort with
      ffmt := f, mstr := m, status := (s.port s.execPort).status.ended, pend := .none }, 0, rfl, rfl, rfl, rfl, ?_⟩
    cases s.execPort <;> rfl
  · refine ⟨{ s.port s.execPort with
      ifbclk := (s.port s.execPort).bclkLatch, status := (s.port s.execPort).status.ended, pend := .none }, 0,
      rfl, rfl, rfl, rfl, ?_⟩
    cases s.execPort <;> rfl
  · obtain ⟨q, c, h1, h2, h3, h4, h5⟩ := hend s.execPort (fmtResult (fmtOperands ‹_› ‹_› ‹_› s.execPort s))
    exact ⟨q, c, h1, h2, h3, h4, by rw [← h5]⟩
  · rename_i B C X R
    obtain ⟨q, c, h1, h2, h3, h4, h5⟩ :=
      hend s.execPort (divlResult B.toNat C.toNat (s.rate s.execPort) (divlReference X R s.clk.refSel))
    exact ⟨q, c, h1, h2, h3, h4, by rw [← h5]⟩

/-! ### The steps of the sequencer -/

/-- A step of the power-down sequence (rule R153) touches the sequencer, its four control fields, the
events and the store; a port only when it ends. -/
theorem State.powerDownStep_kept {s u : State} (h : s.powerDownStep = .ok u) :
    u.clk = s.clk ∧ u.arb = s.arb ∧ u.sel0 = s.sel0 ∧ u.sel1 = s.sel1 ∧ u.now = s.now ∧
      u.ctl.xtalPdn = s.ctl.xtalPdn ∧ u.ctl.xtalRdyIe = s.ctl.xtalRdyIe ∧ u.ctl.mclkSrcSel = s.ctl.mclkSrcSel ∧
      u.ctl.mclkInt = s.ctl.mclkInt ∧ u.ctl.pllPdn = s.ctl.pllPdn ∧ u.ctl.asp3st = s.ctl.asp3st ∧
      u.ctl.scratchA = s.ctl.scratchA ∧ u.ctl.scratchB = s.ctl.scratchB ∧ (s.ctl.mute = 1 → u.ctl.mute = 1) ∧
      u.psq.reqArb = s.psq.reqArb ∧ (u.psq.wt = s.psq.wt ∨ u.psq.wt = s.now) := by
  unfold State.powerDownStep State.psqEnd at h
  split at h <;> (try split at h) <;> cases h <;> simp [Ctl.set, State.psqGoto]

/-- A step of the power-up sequence (rule R156): the same, with its five fields. -/
theorem State.powerUpStep_kept {s u : State} (h : s.powerUpStep = .ok u) :
    u.clk = s.clk ∧ u.arb = s.arb ∧ u.sel0 = s.sel0 ∧ u.sel1 = s.sel1 ∧ u.now = s.now ∧
      u.ctl.xtalPdn = s.ctl.xtalPdn ∧ u.ctl.xtalRdyIe = s.ctl.xtalRdyIe ∧ u.ctl.mclkSrcSel = s.ctl.mclkSrcSel ∧
      u.ctl.mclkInt = s.ctl.mclkInt ∧ u.ctl.pllPdn = s.ctl.pllPdn ∧ u.ctl.mute = s.ctl.mute ∧
      u.ctl.pdnDoneInh = s.ctl.pdnDoneInh ∧ (s.ctl.asp3st = 0 → u.ctl.asp3st = 0) ∧
      u.psq.reqArb = s.psq.reqArb ∧ (u.psq.wt = s.psq.wt ∨ u.psq.wt = s.now) := by
  unfold State.powerUpStep State.psqEnd at h
  split at h <;> (try split at h) <;> cases h <;> simp [Ctl.set, State.psqGoto]

/-! ### The steps of the arbiter -/

/-- The four listings of the arbiter (rules R86, R88, R97, R98) as one relation: `u` is what a step of some
arbiter command of port `p` reaches from `s`. -/
inductive ArbStep (s : State) (p : Port) (u : State) : Prop where
  | acq (h : s.acqStep p = .ok u)
  | rel (h : s.relStep p = .ok u)
  | sws (x : BitVec 2) (h : s.swsStep x p = .ok u)
  | cfg (b : BitVec 2) (y : Bit) (h : s.cfgStep b y p = .ok u)

/-- What no step of the arbiter touches (rules R80, R150): time, the sequencer's register and owner, the
sequencer's control fields, the other port. -/
structure ArbKept (s u : State) (p : Port) : Prop where
  now : u.now = s.now
  wt : u.arb.wt = s.arb.wt ∨ u.arb.wt = s.now
  psqWt : u.psq.wt = s.psq.wt
  psqSeq : u.psq.seq = s.psq.seq
  owner : u.psq.owner = s.psq.owner
  mute : u.ctl.mute = s.ctl.mute
  inhibit : u.ctl.pdnDoneInh = s.ctl.pdnDoneInh
  pdnOut : u.ctl.pdnOut = s.ctl.pdnOut
  pdnPath : u.ctl.pdnPath = s.ctl.pdnPath
  asp : u.ctl.asp3st = s.ctl.asp3st
  scratchA : u.ctl.scratchA = s.ctl.scratchA
  scratchB : u.ctl.scratchB = s.ctl.scratchB
  other : u.port (otherPort p) = s.port (otherPort p)

/-- A step of the source switch (rules R100 to R104, R108, R111) keeps all that. -/
theorem State.switchStep_kept {s u : State} {p : Port} (h : s.switchStep p = .ok u) : ArbKept s u p := by
  unfold State.switchStep at h
  split at h <;> cases h
  all_goals
    try unfold State.xtalWait
    try split
  all_goals
    try split
  all_goals
    constructor <;>
      simp [Ctl.set, State.switchReturn, State.gotoTail, State.programMux, State.commitSource, State.arbGoto] <;>
      (try (cases p <;> rfl))

/-- Every step of the arbiter keeps all that. -/
theorem ArbStep.kept {s u : State} {p : Port} (h : ArbStep s p u) : ArbKept s u p := by
  cases h with
  | acq h =>
    unfold State.acqStep at h
    split at h
    case h_9 => exact State.switchStep_kept h
    case h_2 =>
      split at h <;> cases h <;> constructor <;> simp [State.arbGoto]
      cases p <;> rfl
    all_goals
      cases h
      try split
    all_goals
      constructor <;> simp [State.callSwitch, State.arbGoto] <;> (try (cases p <;> rfl))
  | rel h =>
    unfold State.relStep at h
    split at h
    case h_7 => exact State.switchStep_kept h
    all_goals
      cases h
      try unfold State.relHold
      try split
    all_goals
      try split
    all_goals
      constructor <;> simp [State.callSwitch, State.arbGoto] <;> (try (cases p <;> rfl))
  | sws x h =>
    unfold State.swsStep at h
    split at h
    case h_3 => exact State.switchStep_kept h
    all_goals
      cases h
    all_goals
      constructor <;> simp [State.callSwitch] <;> (try (cases p <;> rfl))
  | cfg b y h =>
    unfold State.cfgStep at h
    split at h
    case h_3 => cases h
    all_goals
      cases h
      try split
    all_goals
      constructor <;> simp [State.arbGoto] <;> (try (cases p <;> rfl))

/-- A step that ends the arbiter's command (rules R82, R170, R171). -/
def ArbEnded (s u : State) (p : Port) : Prop :=
  u.clk.lock = .free ∧ u.arb.seq = .idle ∧
    (∃ st : Status, st.busy = false ∧ st.done = true ∧ u.port p = { s.port p with status := st, pend := .none }) ∧
    ∃ es code, u.events = s.events ++ es ++ [.complete p code]

/-- A step after which the arbiter's command goes on. -/
def ArbGoesOn (s u : State) (p : Port) : Prop :=
  u.clk.lock = s.clk.lock ∧ u.port p = s.port p ∧ u.arb.seq ≠ .idle

/-- `done` on the arbiter ends the command. -/
theorem arbEnded_finish {s v : State} {p : Port} (hv : v.port p = s.port p) (he : ∃ es, v.events = s.events ++ es) :
    ArbEnded s (v.finish .arb p) p := by
  obtain ⟨es, he⟩ := he
  exact ⟨by simp, by simp, ⟨(s.port p).status.ended, rfl, rfl, by simp [hv]⟩, es, 0, by simp [he]⟩

/-- `raise` on the arbiter ends the command. -/
theorem arbEnded_raise {s v : State} {p : Port} (e : CmdError) (hv : v.port p = s.port p)
    (he : ∃ es, v.events = s.events ++ es) : ArbEnded s (v.raiseError .arb p e) p := by
  obtain ⟨es, he⟩ := he
  exact ⟨by simp, by simp, ⟨(s.port p).status.failed e, rfl, rfl, by simp [hv]⟩, es, e.ecode, by simp [he]⟩

/-- A step that changes neither port nor lock and names a label goes on. -/
theorem arbGoesOn_of {s u : State} (p : Port) (h0 : u.p0 = s.p0) (h1 : u.p1 = s.p1)
    (hl : u.clk.lock = s.clk.lock) (hs : u.arb.seq ≠ .idle) : ArbGoesOn s u p := by
  refine ⟨hl, ?_, hs⟩
  cases p
  · exact h0
  · exact h1

/-- A step of the source switch ends the command at S1 with a bad target or at X5 without the crystal, and
goes on everywhere else (rules R100, R103). -/
theorem State.switchStep_ends {s u : State} {p : Port} (h : s.switchStep p = .ok u) :
    (ArbEnded s u p ∧ (s.arb.seq = .S1 ∧ s.arb.tgt = 3 ∨ s.arb.seq = .X5 ∧ s.arb.got = false)) ∨
      ArbGoesOn s u p := by
  unfold State.switchStep at h
  split at h <;> rename_i hl <;> cases h
  case h_2.refl =>
    split
    · exact .inl ⟨arbEnded_raise _ rfl ⟨[], by simp⟩, .inl ⟨hl, ‹_›⟩⟩
    · right; apply arbGoesOn_of <;> (try rfl); split <;> simp
  case h_7.refl =>
    split
    · right
      unfold State.gotoTail
      apply arbGoesOn_of <;> (try rfl)
      by_cases e : s.arb.tgt = 0#2 <;> simp [e]
    · exact .inl ⟨arbEnded_raise _ (by simp) ⟨[_], by simp; rfl⟩, .inr ⟨hl, (Bool.not_eq_true _).mp ‹_›⟩⟩
  all_goals
    right
    try unfold State.xtalWait
    try unfold State.gotoTail
    try unfold State.commitSource
    try unfold State.switchReturn
    try split
  all_goals
    try split
  all_goals
    apply arbGoesOn_of <;> first | rfl | simp [hl]

/-- Every step of the arbiter ends the command or goes on. -/
theorem ArbStep.ends {s u : State} {p : Port} (h : ArbStep s p u) : ArbEnded s u p ∨ ArbGoesOn s u p := by
  cases h with
  | acq h =>
    unfold State.acqStep at h
    split at h
    case h_9 => exact (State.switchStep_ends h).imp_left And.left
    case h_2 =>
      split at h <;> cases h
      · exact .inl (arbEnded_raise _ rfl ⟨[], by simp⟩)
      · right; apply arbGoesOn_of <;> first | rfl | simp
    all_goals cases h
    all_goals try split
    case h_7.refl.isTrue => exact .inl (arbEnded_raise _ rfl ⟨[], by simp⟩)
    case h_8.refl => exact .inl (arbEnded_finish rfl ⟨[], by simp⟩)
    all_goals
      right; apply arbGoesOn_of <;> first | rfl | simp
  | rel h =>
    unfold State.relStep at h
    split at h <;> try rename_i hl
    case h_7 => exact (State.switchStep_ends h).imp_left And.left
    all_goals cases h
    all_goals try unfold State.relHold
    all_goals try split
    case h_1.refl.isTrue => exact .inl (arbEnded_raise _ rfl ⟨[], by simp⟩)
    case h_2.refl.isTrue => exact .inl (arbEnded_finish (by cases p <;> rfl) ⟨[], by simp⟩)
    case h_6.refl => exact .inl (arbEnded_finish rfl ⟨[], by simp⟩)
    all_goals try split
    all_goals
      right; apply arbGoesOn_of <;> first | rfl | simp [hl]
  | sws x h =>
    unfold State.swsStep at h
    split at h
    case h_3 => exact (State.switchStep_ends h).imp_left And.left
    all_goals cases h
    case h_2.refl => exact .inl (arbEnded_finish rfl ⟨[], by simp⟩)
    all_goals
      right; apply arbGoesOn_of <;> first | rfl | simp
  | cfg b y h =>
    unfold State.cfgStep at h
    split at h
    case h_3 => cases h
    all_goals cases h
    case h_2.refl => exact .inl (arbEnded_finish (by cases p <;> rfl) ⟨[], by simp⟩)
    split
    · exact .inl (arbEnded_raise _ rfl ⟨[], by simp⟩)
    · right; apply arbGoesOn_of <;> first | rfl | simp

/-! ### The step -/

/-- The move is an engine's, and a command is due. -/
def State.EngineTurn (s : State) : Prop :=
  (∃ p, s.move = .fu p ∧ s.dueFu p = .run) ∨ (∃ p, s.move = .arb p ∧ s.dueArb p = .run) ∨
    ∃ r, s.move = .psq r ∧ s.duePsq r = .run

/-- Everything a step can be: nothing due; an access of the host; the crystal; time; reset; a step of a
command; the one step of an illegal word. -/
theorem step_next {s t : State} (h : step s = .next t) :
    t = s.advance ∨ (∃ a, s.move = .host a ∧ t = (s.hostAccess a).advance) ∨
      (s.move = .xtal ∧ t = s.xtalReady.advance) ∨ (∃ d, s.move = .time d ∧ t = (s.passTime d).advance) ∨
      (s.move = .rst ∧ t = s.applyReset.advance) ∨
      (s.EngineTurn ∧ ∃ i, decode (s.port s.execPort).cmdLatch = .ok i ∧ exec i s = .next t) ∨
      (s.EngineTurn ∧ ∃ e, decode (s.port s.execPort).cmdLatch = .error e ∧
        t = (s.rejectWord s.execPort e).advance) := by
  have key : ∀ d, runDue d s = .next t → (d = .run → s.EngineTurn) → t = s.advance ∨
      (s.EngineTurn ∧ ∃ i, decode (s.port s.execPort).cmdLatch = .ok i ∧ exec i s = .next t) ∨
      (s.EngineTurn ∧ ∃ e, decode (s.port s.execPort).cmdLatch = .error e ∧
        t = (s.rejectWord s.execPort e).advance) := by
    intro d hd he
    cases d with
    | idle => cases hd; exact .inl rfl
    | ownerless => cases hd
    | run =>
      simp only [runDue, runCommand, State.commandWord] at hd
      split at hd
      · exact .inr (.inl ⟨he rfl, _, ‹_›, hd⟩)
      · exact .inr (.inr ⟨he rfl, _, ‹_›, by cases hd; rfl⟩)
  unfold step at h
  split at h
  · cases h; exact .inr (.inl ⟨_, ‹_›, rfl⟩)
  · rename_i p hm
    exact (key _ h fun hd => .inl ⟨p, hm, hd⟩).imp_right fun h => .inr (.inr (.inr (.inr h)))
  · rename_i p hm
    exact (key _ h fun hd => .inr (.inl ⟨p, hm, hd⟩)).imp_right fun h => .inr (.inr (.inr (.inr h)))
  · rename_i r hm
    exact (key _ h fun hd => .inr (.inr ⟨r, hm, hd⟩)).imp_right fun h => .inr (.inr (.inr (.inr h)))
  · cases h; exact .inr (.inr (.inl ⟨‹_›, rfl⟩))
  · cases h; exact .inr (.inr (.inr (.inl ⟨_, ‹_›, rfl⟩)))
  · cases h; exact .inr (.inr (.inr (.inr (.inl ⟨‹_›, rfl⟩))))

end Sys2Proof.Machine
end

