-- ==== Sys2Proof/Laws/PerInstr.lean ====
section
/-! SUPPORT. The statements made once for each command: its word lies in its row of the opcode table. -/

namespace Sys2Proof.Laws

/-- The `match` and `mask` of a command's row in the opcode table (rules R62 to R68). -/
def tableRow : Instr → Word × Word
  | .nop => (0x00000000, 0xFFFFFFFF)
  | .acq => (0x10000000, 0xFFFFFFFF)
  | .rel => (0x20000000, 0xFFFFFFFF)
  | .sws _ => (0x30000000, 0xFFFFFFFC)
  | .pdn => (0x40000000, 0xFFFFFFFF)
  | .pup => (0x50000000, 0xFFFFFFFF)
  | .sfmt _ _ => (0x60000000, 0xFFFFFFF0)
  | .sclk => (0x70000000, 0xFFFFFFFF)
  | .fmt _ _ _ => (0x80000000, 0xFFFFF001)
  | .divl _ _ _ _ => (0x90000000, 0xFFFFF000)
  | .cfg _ _ => (0xA0000000, 0xFFFFFFF8)

/-- The word of a command, cut to the bits its row fixes, is the row's pattern. -/
def RowOf.Statement (i : Instr) : Prop := encode i &&& (tableRow i).2 = (tableRow i).1

theorem RowOf.nop : RowOf.Statement .nop := by unfold RowOf.Statement; decide
theorem RowOf.acq : RowOf.Statement .acq := by unfold RowOf.Statement; decide
theorem RowOf.rel : RowOf.Statement .rel := by unfold RowOf.Statement; decide
theorem RowOf.sws (tgt : BitVec 2) : RowOf.Statement (.sws tgt) := by
  unfold RowOf.Statement; revert tgt; decide
theorem RowOf.pdn : RowOf.Statement .pdn := by unfold RowOf.Statement; decide
theorem RowOf.pup : RowOf.Statement .pup := by unfold RowOf.Statement; decide
theorem RowOf.sfmt (ffmt : BitVec 3) (mstr : Bit) : RowOf.Statement (.sfmt ffmt mstr) := by
  unfold RowOf.Statement; revert ffmt mstr; decide
theorem RowOf.sclk : RowOf.Statement .sclk := by unfold RowOf.Statement; decide
theorem RowOf.fmt (width : BitVec 6) (chans : BitVec 4) (dsd : Bit) :
    RowOf.Statement (.fmt width chans dsd) := by
  show (0x8#4 ++ 0#16 ++ width ++ chans ++ dsd ++ 0#1) &&& 0xFFFFF001#32 = 0x80000000#32
  refine BitVec.eq_of_getLsbD_eq fun n hn => ?_
  interval_cases n <;> simp only [BitVec.getLsbD_and, BitVec.getLsbD_append] <;> simp
theorem RowOf.divl (bcw : BitVec 6) (chans : BitVec 4) (refx ref : Bit) :
    RowOf.Statement (.divl bcw chans refx ref) := by
  show (0x9#4 ++ 0#16 ++ bcw ++ chans ++ refx ++ ref) &&& 0xFFFFF000#32 = 0x90000000#32
  refine BitVec.eq_of_getLsbD_eq fun n hn => ?_
  interval_cases n <;> simp only [BitVec.getLsbD_and, BitVec.getLsbD_append] <;> simp
theorem RowOf.cfg (bias : BitVec 2) (bypass : Bit) : RowOf.Statement (.cfg bias bypass) := by
  unfold RowOf.Statement; revert bias bypass; decide

end Sys2Proof.Laws
end

