-- ==== Sys2Proof/Laws/Store.lean ====
section
/-! SUPPORT. `RS.update` (rule R43) and the chip's copy of the control fields: what one update makes of the
agreement between the two (rules R45, R192). -/

namespace Sys2Proof.Machine

/-- The premise of rule R44 holds of the model, whatever the free values are (log 18). -/
theorem noPreciousField : NoPreciousField := fun f => (rsMap_field f).2

/-- The chip's copy of field `g` holds what the block believes. -/
def State.AgreesAt (s : State) (g : CtlField) : Prop :=
  Memory.read s.store (rsMap g).addr.toNat &&& (rsMap g).mask = fieldBits g (s.ctl.get g)

/-- The bits an update of `f` to `v` carries are the bits of the value `CTL.f` then has: the value cut to the
field's width fills the mask (rule R45). -/
theorem fieldBits_get_set (c : Ctl) (f : CtlField) (v : Byte) : fieldBits f ((c.set f v).get f) = fieldBits f v := by
  rw [Ctl.get_set_same]
  have hl := rsMap_loc f
  simp only [locOk, Bool.and_eq_true, decide_eq_true_eq, beq_iff_eq] at hl
  have hm : (rsMap f).mask = BitVec.ofNat 8 ((2 ^ fieldWidth f - 1) * 2 ^ (rsMap f).shift.toNat) := by
    rw [← hl.2]; simp
  simp only [fieldBits, hm]
  have hfit := hl.1
  clear hl hm
  generalize (rsMap f).shift.toNat = sh at *
  have hw : fieldWidth f = 1 ∨ fieldWidth f = 2 ∨ fieldWidth f = 8 := by cases f <;> simp [fieldWidth]
  generalize fieldWidth f = w at *
  have hsh : sh < 8 := by omega
  rcases hw with rfl | rfl | rfl <;> interval_cases sh <;> first | omega | (revert v; decide)

/-- Writing bits `y` under the mask `k` and reading them back under `k`. -/
theorem masked_write_same (x k y : Byte) : ((x &&& ~~~k) ||| (y &&& k)) &&& k = y &&& k := by
  apply BitVec.eq_of_getLsbD_eq
  intro i hi
  simp only [BitVec.getLsbD_and, BitVec.getLsbD_or, BitVec.getLsbD_not, hi]
  cases k.getLsbD i <;> simp

/-- Writing bits under the mask `k` leaves what a disjoint mask `l` selects. -/
theorem masked_write_other {k l : Byte} (x y : Byte) (h : l &&& k = 0) :
    ((x &&& ~~~k) ||| (y &&& k)) &&& l = x &&& l := by
  apply BitVec.eq_of_getLsbD_eq
  intro i hi
  have hi' := congrArg (·.getLsbD i) h
  simp only [BitVec.getLsbD_and, BitVec.getLsbD_or, BitVec.getLsbD_not, hi] at hi' ⊢
  revert hi'
  cases k.getLsbD i <;> cases l.getLsbD i <;> simp

/-- An update makes the chip agree about its own field. -/
theorem State.rsUpdate_agrees_same {s : State} (f : CtlField) (v : Byte) (hw : Memory.wf s.store = true) :
    (s.rsUpdate f v).AgreesAt f := by
  simp only [State.AgreesAt, State.rsUpdate]
  rw [Memory.read_updateBits_same _ _ hw, masked_write_same, fieldBits_and_mask, fieldBits_get_set]

/-- An update leaves the chip's copy of every other field, and what the block believes of it. -/
theorem State.rsUpdate_agrees_other {s : State} {f g : CtlField} (v : Byte) (hw : Memory.wf s.store = true)
    (hg : g ≠ f) : (s.rsUpdate f v).AgreesAt g ↔ s.AgreesAt g := by
  simp only [State.AgreesAt, State.rsUpdate]
  rw [Ctl.get_set_other _ _ hg]
  by_cases ha : (rsMap g).addr.toNat = (rsMap f).addr.toNat
  · rcases rsMap_disjoint hg with hd | hd
    · exact absurd (BitVec.eq_of_toNat_eq ha) hd
    · rw [ha, Memory.read_updateBits_same _ _ hw, masked_write_other _ _ hd]
  · rw [Memory.read_updateBits_other _ _ _ ha]

end Sys2Proof.Machine
end

