-- ==== Sys2Proof/Tests/Slice0.lean ====
section
/-! SUPPORT. The model's own tests: the well-formedness smoke test, the decoding of words written out from
the encodings of rules R63 to R68, one or two single steps per command with the values of
`95_test_vectors.md`, and for every statement with hypotheses a state and operands that meet them. -/

namespace Sys2Proof.Tests

open Sys2Proof.Machine

/-! ### Helpers -/

/-- A `Nat` test of the answer of a step: the state it gives, if any, satisfies `f`. -/
def gives (r : Result) (f : State → Bool) : Bool :=
  match r with
  | .next t => f t
  | _ => false

/-- Port `p` with the word of `i` in flight. -/
def running (i : Instr) (pend : Pend) : PortState :=
  { PortState.reset with cmd := encode i, cmdLatch := encode i, status := Status.clear.issued, pend := pend }

/-- From reset, the format unit of port 0 is about to execute `i`; rate operand, `FFMT`, `MSTR`, `IFBCLK` and
`ref_sel` as given. -/
def fuTurn (i : Instr) (rate : Word) (ffmt : BitVec 3) (mstr : Bit) (ifbclk : Word) (k : Bit) : State :=
  { State.reset with
    p0 := { running i .fu with rateLatch := rate, ffmt := ffmt, mstr := mstr, ifbclk := ifbclk }
    clk := { ClockState.reset with refSel := k }
    sched := [.fu .p0] }

/-- The same for port 1. -/
def fuTurn1 (i : Instr) (rate : Word) (ffmt : BitVec 3) (mstr : Bit) (ifbclk : Word) (k : Bit) : State :=
  { State.reset with
    p1 := { running i .fu with rateLatch := rate, ffmt := ffmt, mstr := mstr, ifbclk := ifbclk }
    clk := { ClockState.reset with refSel := k }
    sched := [.fu .p1] }

/-- From reset, the arbiter is at label `l` of the command `i` of port 0, and moves. -/
def arbTurn (i : Instr) (l : ArbLabel) : State :=
  { State.reset with
    p0 := running i .arbRun
    clk := { ClockState.reset with lock := .held .p0 }
    arb := { ArbState.reset with seq := l }
    sched := [.arb .p0] }

/-- The same with a request count. -/
def arbCount (i : Instr) (l : ArbLabel) (n : BitVec 8) : State :=
  { arbTurn i l with clk := { ClockState.reset with lock := .held .p0, reqCnt := n } }

/-- The same with a target and a return label of the source switch. -/
def arbTo (i : Instr) (l : ArbLabel) (tgt : BitVec 2) (ret : ReturnLabel) : State :=
  { arbTurn i l with arb := { ArbState.reset with seq := l, tgt := tgt, ret := ret } }

/-- From reset, the sequencer is at label `l` of the command `i` of port 0, and moves. -/
def psqTurn (i : Instr) (l : PsqLabel) : State :=
  { State.reset with
    p0 := running i .psqRun
    psq := { PsqState.reset with seq := l, owner := .port .p0 }
    sched := [.psq (.port .p0)] }

/-- The sequencer is at label `l` of the power-down inside the `REL` of port 0, and moves. -/
def relPsqTurn (l : PsqLabel) : State :=
  { arbCount .rel .L2 1 with
    psq := { PsqState.reset with seq := l, owner := .arb, reqArb := true }
    sched := [.psq .arb] }

/-- From reset, the command `i` of port 0 waits for the arbiter, which is offered that port. -/
def arbOffer (i : Instr) : State := { State.reset with p0 := running i .arbWait, sched := [.arb .p0] }

/-- From reset, the command `i` of port 0 waits for the sequencer, which is offered that port. -/
def psqOffer (i : Instr) : State := { State.reset with p0 := running i .psqWait, sched := [.psq (.port .p0)] }

/-- From reset, the agent of `m` moves. -/
def moves (m : Move) : State := { State.reset with sched := [m] }

/-! ### Well-formedness (rule R67) -/

theorem test_wf_refuses_divl_ref_without_refx : (Instr.divl 16 2 0 1).wf = false := by decide
theorem test_wf_accepts_divl_ref_with_refx : (Instr.divl 16 2 1 1).wf = true := by decide
theorem test_decode_refuses_ill_formed_divl : decode (encode (.divl 16 2 0 1)) = .error .reservedBits := rfl

/-! ### Decoding: words written out bit by bit from rules R62 to R68, with the canonical words of rule R72 -/

theorem test_decode_nop : decode 0b00000000000000000000000000000000 = .ok .nop := rfl
theorem test_decode_acq : decode 0b00010000000000000000000000000000 = .ok .acq := rfl
theorem test_decode_rel : decode 0b00100000000000000000000000000000 = .ok .rel := rfl
theorem test_decode_sws : decode 0b00110000000000000000000000000010 = .ok (.sws 2) := rfl
theorem test_decode_pdn : decode 0b01000000000000000000000000000000 = .ok .pdn := rfl
theorem test_decode_pup : decode 0b01010000000000000000000000000000 = .ok .pup := rfl
theorem test_decode_sfmt : decode 0b01100000000000000000000000000110 = .ok (.sfmt 3 0) := rfl
theorem test_decode_sclk : decode 0b01110000000000000000000000000000 = .ok .sclk := rfl
theorem test_decode_fmt : decode 0b10000000000000000000011000001010 = .ok (.fmt 24 2 1) := rfl
theorem test_decode_divl : decode 0b10010000000000000000110000000110 = .ok (.divl 48 1 1 0) := rfl
theorem test_decode_cfg : decode 0b10100000000000000000000000000101 = .ok (.cfg 2 1) := rfl

/-- Vectors E2 to E8, E10 to E12: the illegal words and why. -/
theorem test_decode_illegal_words :
    decode 0xB0000000 = .error .illegalOpcode ∧ decode 0xF0000001 = .error .illegalOpcode ∧
      decode 0x10000001 = .error .reservedBits ∧ decode 0x30000004 = .error .reservedBits ∧
      decode 0x60000010 = .error .reservedBits ∧ decode 0x80000609 = .error .reservedBits ∧
      decode 0x90000409 = .error .reservedBits ∧ decode 0xA0000008 = .error .reservedBits ∧
      decode 0x70000001 = .error .reservedBits ∧ decode 0x4000FFFF = .error .reservedBits := by
  refine ⟨?_, ?_, ?_, ?_, ?_, ?_, ?_, ?_, ?_, ?_⟩ <;> rfl

/-- The encodings below vector E14. -/
theorem test_encode_canonical_words :
    encode (.sws 1) = 0x30000001 ∧ encode (.sfmt 3 0) = 0x60000006 ∧ encode (.fmt 32 2 1) = 0x8000080A ∧
      encode (.divl 16 4 1 1) = 0x90000413 ∧ encode (.cfg 3 1) = 0xA0000007 := by decide

/-- The words of the opcode table's own numbering. -/
theorem test_decodeTableWord : decodeTableWord 32 0x80000608 = some (.fmt 24 2 0) ∧ decodeTableWord 32 0x4000FFFF = none :=
  ⟨rfl, rfl⟩

/-! ### Single steps, with the values of the test vectors -/

/-- Vector E1. -/
theorem test_nop_from_reset :
    gives (step (State.reset.withFetchWord 32 0)) (fun t => t.regWord (.port .p0 .STATUS) == 0x00000002) = true := rfl
/-- Vector E4: the illegal word ends with `RESERVED_BITS`. -/
theorem test_illegal_word_from_reset :
    gives (step { State.reset with
      p0 := { running .nop .fu with cmdLatch := 0x10000001 }, sched := [.fu .p0] })
      (fun t => t.regWord (.port .p0 .STATUS) == 0x00000276 && t.events == [.complete .p0 7]) = true := rfl
/-- Vector E14: a word written to a busy port is dropped and sets `OVR`. -/
theorem test_overrun :
    gives (step { arbTurn .acq .A7 with sched := [.host (.write 4 0 0x20000000)] })
      (fun t => t.regWord (.port .p0 .STATUS) == 0x00000009 && t.p0.cmd == 0x10000000) = true := rfl
/-- Rule R191: `CLKSTAT`, `CTLOUT` and `SCRATCH` after reset. -/
theorem test_reset_words :
    State.reset.regWord .CLKSTAT = 0x0000000A ∧ State.reset.regWord .CTLOUT = 0x00001D0B ∧
      State.reset.regWord .SCRATCH = 0 := by decide

/-- Vector A10: a rate both references divide takes the first. -/
theorem test_acq_reference_tie :
    gives (step { arbTurn .acq .A1 with p0 := { running .acq .arbRun with rateLatch := 1200 } })
      (fun t => t.clk.refSel == 0 && t.arb.seq == .A2) = true := rfl
/-- Vector A8: no reference. -/
theorem test_acq_no_reference :
    gives (step { arbTurn .acq .A1 with p0 := { running .acq .arbRun with rateLatch := 50000 } })
      (fun t => t.regWord (.port .p0 .STATUS) == 0x00000146 && t.clk.lock == .free) = true := rfl
/-- Vector A4: a release with two requests held ends at once. -/
theorem test_rel_of_two :
    gives (step (arbCount .rel .L1 2)) (fun t => t.regWord (.port .p0 .STATUS) == 2 && t.clk.reqCnt == 1) = true := rfl
/-- Vector A6: a release with none held. -/
theorem test_rel_underflow :
    gives (step (arbCount .rel .L0 0)) (fun t => t.regWord (.port .p0 .STATUS) == 0x00000576) = true := rfl
/-- Vector A14: the invalid source. -/
theorem test_sws_invalid_source :
    gives (step (arbTo (.sws 3) .S1 3 .W1))
      (fun t => t.regWord (.port .p0 .STATUS) == 0x00000376 && t.clk == ClockState.reset) = true := rfl
/-- Vector A13: the source it is on already. -/
theorem test_sws_same_source :
    gives (step (arbTo (.sws 2) .S0 2 .W1)) (fun t => t.arb.seq == .W1 && t.events == []) = true := rfl
/-- Vector A18. -/
theorem test_cfg_stores :
    gives (step (arbTurn (.cfg 2 1) .C1)) (fun t => t.regWord .CLKSTAT == 0x0000002A) = true := rfl
/-- Vector A3. -/
theorem test_cfg_in_use :
    gives (step (arbCount (.cfg 2 1) .C0 2))
      (fun t => t.regWord (.port .p0 .STATUS) == 0x00000676 && t.clk.xtalBias == 0) = true := rfl
/-- Vector Q1: the first event. -/
theorem test_pdn_mutes_first :
    gives (step (psqTurn .pdn .D1)) (fun t => t.events == [.rsUpdate .MUTE 1] && t.psq.seq == .D2) = true := rfl
/-- Vector Q1: the end. -/
theorem test_pdn_ends :
    gives (step (psqTurn .pdn .D6)) (fun t => t.regWord (.port .p0 .STATUS) == 2 && t.regWord .CTLOUT == 0x00001D0B) =
      true := rfl
/-- Vector Q2: the path comes up before the output. -/
theorem test_pup_powers_path_then_output :
    gives (step (psqTurn .pup .U3))
      (fun t => t.events == [.rsUpdate .PDN_PATH 0, .rsUpdate .PDN_OUT 0] && t.ctl.mute == 1) = true := rfl
/-- Vector Q2: the pins are driven first. -/
theorem test_pup_drives_pins_first :
    gives (step (psqTurn .pup .U1)) (fun t => t.events == [.rsUpdate .ASP_3ST 0] && t.ctl.asp3st == 0) = true := rfl
/-- The vectors of SFMT below V11. -/
theorem test_sfmt_stores_any_format :
    gives (step (fuTurn (.sfmt 7 0) 0 0 1 0 0))
      (fun t => t.regWord (.port .p0 .IFCFG) == 0x0000000E && t.regWord (.port .p0 .STATUS) == 2) = true := rfl
/-- The vectors of SCLK below V11. -/
theorem test_sclk_stores_latched_clock :
    gives (step { fuTurn .sclk 0 0 0 0 0 with p0 := { running .sclk .fu with bclkLatch := 3072000, argBclk := 5 } })
      (fun t => t.regWord (.port .p0 .IFBCLK) == 3072000) = true := rfl
/-- Vector F1. -/
theorem test_fmt_f1 :
    gives (step (fuTurn (.fmt 24 2 0) 48000 0 1 0 1))
      (fun t => t.regWord (.port .p0 .RES_DIV) == 0x00200003 && t.regWord (.port .p0 .RES_FRM) == 0x80448C30 &&
        t.regWord (.port .p0 .RES_BCLK) == 2304000) = true := rfl
/-- Vector F25, on port 1. -/
theorem test_fmt_f25 :
    gives (step (fuTurn1 (.fmt 32 2 1) 352800 0 1 0 0))
      (fun t => t.regWord (.port .p1 .RES_DIV) == 0x00010001 && t.regWord (.port .p1 .RES_FRM) == 0x83EE9040) = true := rfl
/-- Vector E9. -/
theorem test_divl_e9 :
    gives (step (fuTurn (.divl 16 2 1 1) 44100 0 0 0 0))
      (fun t => t.regWord (.port .p0 .RES_DIV) == 0x0A000093 && t.regWord (.port .p0 .RES_FRM) == 0x80020020) = true := rfl
/-- Vector V5. -/
theorem test_divl_v5 :
    gives (step (fuTurn (.divl 32 2 1 0) 384000 0 0 0 1))
      (fun t => t.regWord (.port .p0 .STATUS) == 0x00000446 && t.regWord (.port .p0 .RES_FRM) == 0) = true := rfl

/-! ### Witnesses: for each statement with hypotheses, states and operands that meet them, clause by clause -/

theorem witness_DecodeOfEncodeIsTheCommand : (Instr.divl 63 15 1 1).wf = true ∧ (Instr.divl 0 0 0 0).wf = true := by
  decide
theorem witness_EncodeOfDecodeIsTheWord : decode 0x90000FFF = .ok (.divl 63 15 1 1) := rfl

/-- An opcode just above the last, an illegal and a legal word of the last, and one word of each engine. -/
theorem witness_DecodeRoutesEveryWord :
    0xA < (0xB0000000 : Word).toNat / 2 ^ 28 ∧
      ((0xA0000008 : Word).toNat / 2 ^ 28 ≤ 0xA ∧ ¬ legalFields 0xA0000008) ∧
      ((0x90000001 : Word).toNat / 2 ^ 28 ≤ 0xA ∧ ¬ legalFields 0x90000001) ∧
      (legalFields 0x90000FFF ∧ (0x90000FFF : Word).toNat / 2 ^ 28 ∈ [0x0, 0x6, 0x7, 0x8, 0x9]) ∧
      (legalFields 0xA0000007 ∧ (0xA0000007 : Word).toNat / 2 ^ 28 ∈ [0xA, 0x1, 0x2, 0x3]) ∧
      (legalFields 0x50000000 ∧ (0x50000000 : Word).toNat / 2 ^ 28 ∈ [0x4, 0x5]) := by
  unfold legalFields; decide

/-- Port 0 has the illegal word `w` in flight. -/
def illegalTurn (w : Word) : State :=
  { State.reset with p0 := { running .nop .fu with cmdLatch := w }, sched := [.fu .p0] }

theorem witness_IllegalWordOnlyReports :
    ((illegalTurn 0xF0000001).move = .fu .p0 ∧ ((illegalTurn 0xF0000001).port .p0).pend = .fu ∧
      decode ((illegalTurn 0xF0000001).port .p0).cmdLatch = .error .illegalOpcode) ∧
    ((illegalTurn 0x10000001).move = .fu .p0 ∧ ((illegalTurn 0x10000001).port .p0).pend = .fu ∧
      decode ((illegalTurn 0x10000001).port .p0).cmdLatch = .error .reservedBits) :=
  ⟨⟨rfl, rfl, rfl⟩, rfl, rfl, rfl⟩

/-- A write of `REL` to `CMD`: of port 1, idle; of port 0, busy. -/
theorem witness_IssueLatchesTheCommand :
    ((moves (.host (.write 4 (SlaveReg.port .p1 .CMD).offset 0x20000000))).move =
        .host (.write 4 (SlaveReg.port .p1 .CMD).offset 0x20000000) ∧
      ((moves (.host (.write 4 (SlaveReg.port .p1 .CMD).offset 0x20000000))).port .p1).status.busy = false) ∧
    ({ arbTurn .acq .A0 with sched := [.host (.write 4 (SlaveReg.port .p0 .CMD).offset 0x20000000)] } : State).move =
        .host (.write 4 (SlaveReg.port .p0 .CMD).offset 0x20000000) ∧
      (({ arbTurn .acq .A0 with sched := [.host (.write 4 (SlaveReg.port .p0 .CMD).offset 0x20000000)] } : State).port
        .p0).status.busy = true := by decide

/-- The last clause: a halfword at `CMD`, the read-only register next to `ARG_BCLK`, the word past `SCRATCH`. -/
theorem witness_OtherHostWrites :
    (moves (.host (.write 4 (SlaveReg.port .p1 .ARG_RATE).offset 1))).move =
        .host (.write 4 (SlaveReg.port .p1 .ARG_RATE).offset 1) ∧
      (moves (.host (.write 4 (SlaveReg.port .p1 .ARG_BCLK).offset 1))).move =
        .host (.write 4 (SlaveReg.port .p1 .ARG_BCLK).offset 1) ∧
      ((moves (.host (.write 2 0 1))).move = .host (.write 2 0 1) ∧ (2 ≠ 4 ∨ 0 ∉ [0x00, 0x04, 0x08, 0x40, 0x44, 0x48])) ∧
      ((moves (.host (.write 4 0x0C 1))).move = .host (.write 4 0x0C 1) ∧
        (4 ≠ 4 ∨ 0x0C ∉ [0x00, 0x04, 0x08, 0x40, 0x44, 0x48])) ∧
      ((moves (.host (.write 4 0x8C 1))).move = .host (.write 4 0x8C 1) ∧
        (4 ≠ 4 ∨ 0x8C ∉ [0x00, 0x04, 0x08, 0x40, 0x44, 0x48])) := by decide

/-- A register's offset; the word past a port's last register; a byte. -/
theorem witness_HostReadsReturnTheWord :
    ((moves (.host (.read 4 0x88))).move = .host (.read 4 0x88) ∧ (0x88 : Nat) = SlaveReg.SCRATCH.offset) ∧
      ((moves (.host (.read 4 0x24))).move = .host (.read 4 0x24) ∧ ∀ r : SlaveReg, (0x24 : Nat) ≠ r.offset) ∧
      (moves (.host (.read 1 0x88))).move = .host (.read 1 0x88) ∧ (1 : Nat) ≠ 4 := by
  refine ⟨by decide, ⟨by decide, fun r => ?_⟩, by decide, by decide⟩
  cases r with
  | port p q => cases p <;> cases q <;> decide
  | CLKSTAT => decide
  | CTLOUT => decide
  | SCRATCH => decide

theorem witness_ResetInputRestoresReset : ({ arbTurn .acq .A3 with sched := [.rst] } : State).move = .rst := rfl
theorem witness_RsUpdateWritesFieldEventAndStore : Memory.wf State.reset.store = true := rfl
theorem witness_StoreStaysCanonical :
    Memory.wf (psqTurn .pdn .D1).store = true ∧ ∃ t, step (psqTurn .pdn .D1) = .next t := ⟨rfl, _, rfl⟩
/-- A `PDN` about to mute, on a chip that has just been unmuted. -/
def unmuted : State := (psqTurn .pdn .D1).rsUpdate .MUTE 0

/-- The byte of `MUTE` changes in the step D1, so the last clause speaks of something. -/
theorem witness_HistoryDeterminesControlAndStore :
    NoPreciousField ∧ unmuted.move ≠ .rst ∧ ∃ t, step unmuted = .next t ∧
      Memory.read t.store (rsMap .MUTE).addr.toNat ≠ Memory.read unmuted.store (rsMap .MUTE).addr.toNat := by
  refine ⟨noPreciousField, by decide, (unmuted.rsUpdate .MUTE 1 |>.psqGoto .D2).advance, rfl, fun h => ?_⟩
  have hw : Memory.wf unmuted.store = true := State.rsUpdate_wf _ _ _ rfl
  have h0 : unmuted.AgreesAt .MUTE := State.rsUpdate_agrees_same _ _ rfl
  have h1 : (unmuted.rsUpdate .MUTE 1).AgreesAt .MUTE := State.rsUpdate_agrees_same _ _ hw
  have h2 : fieldBits .MUTE 1 = fieldBits .MUTE 0 := h1.symm.trans ((congrArg (· &&& _) h).trans h0)
  have hl := rsMap_loc .MUTE
  simp only [locOk, fieldWidth, Bool.and_eq_true, beq_iff_eq] at hl
  have hm : (rsMap .MUTE).mask = BitVec.ofNat 8 ((2 ^ 1 - 1) * 2 ^ (rsMap .MUTE).shift.toNat) := by
    rw [← hl.2]; simp
  simp only [fieldBits, hm] at h2
  revert h2
  generalize (rsMap .MUTE).shift = sh
  revert sh
  decide

/-- The reset state after every field has been written once with the value it has: the launch premise of
rule R192. -/
def launched : List CtlField → State
  | [] => moves (.fu .p0)
  | f :: fs => (launched fs).rsUpdate f ((launched fs).ctl.get f)

theorem launched_wf (fs : List CtlField) : Memory.wf (launched fs).store = true := by
  induction fs with
  | nil => rfl
  | cons f fs ih => exact State.rsUpdate_wf _ _ _ ih

theorem launched_agrees (fs : List CtlField) (f : CtlField) (h : f ∈ fs) : (launched fs).AgreesAt f := by
  induction fs with
  | nil => cases h
  | cons g fs ih =>
    by_cases hg : f = g
    · subst hg; exact State.rsUpdate_agrees_same _ _ (launched_wf fs)
    · exact (State.rsUpdate_agrees_other _ (launched_wf fs) hg).mpr (ih (by simpa [hg] using h))

theorem witness_StoreAgreementIsKept :
    NoPreciousField ∧ Memory.wf (launched allFields).store = true ∧ StoreAgrees (launched allFields) ∧
      (launched allFields).move ≠ .rst ∧ ∃ t, step (launched allFields) = .next t :=
  ⟨noPreciousField, launched_wf _, fun f => launched_agrees _ f (mem_allFields f), by decide, _, rfl⟩

theorem witness_NopEndsAtOnce : (fuTurn .nop 0 0 0 0 0).move = .fu .p0 ∧ (fuTurn1 .nop 0 0 0 0 0).move = .fu .p1 := by
  decide
theorem witness_SfmtAndSclkStoreTheConfiguration :
    (fuTurn .sclk 0 0 0 0 0).move = .fu .p0 ∧ (fuTurn1 (.sfmt 7 1) 0 0 0 0 0).move = .fu .p1 := by decide

/-- The numbers the statements about `FMT` compute from the port and the operands. -/
structure FmtNumbers where
  w : Nat
  c : Nat
  r : Nat
  b : Nat
  ffmt : Nat

/-- Those numbers of the port whose format unit moves. -/
abbrev numbers (q : PortState) (W : BitVec 6) (C : BitVec 4) : FmtNumbers :=
  { w := W.toNat, c := C.toNat, r := q.rateLatch.toNat, ffmt := q.ffmt.toNat
    b := if q.ifbclk = 0 ∧ q.mstr = 1 then q.rateLatch.toNat * W.toNat * C.toNat else q.ifbclk.toNat }

/-- The checks of steps F1 to F3. -/
def FmtNumbers.listed (n : FmtNumbers) : Bool :=
  [8, 16, 24, 32].contains n.w && decide (n.ffmt ≤ 3) &&
    [32000, 44100, 48000, 88200, 96000, 176400, 192000, 352800, 384000].contains n.r
/-- The bit-clock width. -/
def FmtNumbers.bcw (n : FmtNumbers) : Nat := n.b / n.r / n.c
/-- The frame size. -/
def FmtNumbers.fs (n : FmtNumbers) : Nat := n.bcw * n.c
/-- The checks of steps F4 to F6. -/
def FmtNumbers.clocked (n : FmtNumbers) : Bool := n.listed && n.c != 0 && n.b != 0 && decide (n.w ≤ n.bcw)
/-- The checks before the divider's. -/
def FmtNumbers.framed (n : FmtNumbers) : Bool := n.clocked && [16, 32, 48, 64].contains n.fs

/-- Vectors F5 (smallest frame, last format, derived clock), F21 (largest frame and rate, second reference),
F25 (DSD at 352800 on port 1), F7 (smallest width), F29 (explicit clock). -/
theorem witness_FmtDeliversTheResults :
    (let s := fuTurn (.fmt 16 1 0) 32000 3 1 0 1; s.move = .fu .p0 ∧ (numbers s.p0 16 1).framed) ∧
    (let s := fuTurn (.fmt 32 2 0) 384000 0 1 0 1; s.move = .fu .p0 ∧ (numbers s.p0 32 2).framed ∧
      ¬ (s.clk.refSel = 0 ∧ (numbers s.p0 32 2).fs = 64 ∧ (numbers s.p0 32 2).r = 384000)) ∧
    (let s := fuTurn1 (.fmt 32 2 1) 352800 0 1 0 0; s.move = .fu .p1 ∧ (numbers s.p1 32 2).framed ∧
      (numbers s.p1 32 2).r = 352800) ∧
    (let s := fuTurn (.fmt 8 2 0) 44100 0 1 0 0; s.move = .fu .p0 ∧ (numbers s.p0 8 2).framed) ∧
    (let s := fuTurn (.fmt 16 2 0) 48000 0 0 3100000 1; s.move = .fu .p0 ∧ (numbers s.p0 16 2).framed) := by
  dsimp only; decide

/-- Vectors F8, F10, F12, F13, F14, F16, F17, F20, F27, one for each failing check. -/
theorem witness_FmtReportsTheFirstFailingCheck :
    (let s := fuTurn (.fmt 20 1 0) 48000 0 1 0 0; s.move = .fu .p0 ∧ (numbers s.p0 20 1).w ∉ [8, 16, 24, 32]) ∧
    (let s := fuTurn (.fmt 16 2 0) 48000 4 1 0 0; s.move = .fu .p0 ∧
      (numbers s.p0 16 2).w ∈ [8, 16, 24, 32] ∧ ¬ (numbers s.p0 16 2).ffmt ≤ 3) ∧
    (let s := fuTurn (.fmt 16 2 0) 22050 0 1 0 0; s.move = .fu .p0 ∧ (numbers s.p0 16 2).w ∈ [8, 16, 24, 32] ∧
      (numbers s.p0 16 2).ffmt ≤ 3 ∧ (numbers s.p0 16 2).r ∉ rates) ∧
    (let s := fuTurn (.fmt 16 0 0) 48000 0 1 0 0; s.move = .fu .p0 ∧ (numbers s.p0 16 0).listed ∧
      (numbers s.p0 16 0).c = 0) ∧
    (let s := fuTurn (.fmt 16 2 0) 48000 0 0 0 0; s.move = .fu .p0 ∧ (numbers s.p0 16 2).listed ∧
      (numbers s.p0 16 2).c ≠ 0 ∧ (numbers s.p0 16 2).b = 0) ∧
    (let s := fuTurn (.fmt 24 2 0) 44100 0 0 1411200 0; s.move = .fu .p0 ∧ (numbers s.p0 24 2).listed ∧
      (numbers s.p0 24 2).c ≠ 0 ∧ (numbers s.p0 24 2).b ≠ 0 ∧ (numbers s.p0 24 2).bcw < 24) ∧
    (let s := fuTurn (.fmt 16 1 0) 48000 0 1 960000 1; s.move = .fu .p0 ∧ (numbers s.p0 16 1).clocked ∧
      (numbers s.p0 16 1).fs ∉ [16, 32, 48, 64]) ∧
    (let s := fuTurn (.fmt 32 2 0) 384000 0 1 0 0; s.move = .fu .p0 ∧ (numbers s.p0 32 2).framed ∧
      s.clk.refSel = 0 ∧ (numbers s.p0 32 2).fs = 64 ∧ (numbers s.p0 32 2).r = 384000) ∧
    (let s := fuTurn1 (.fmt 16 2 1) 48000 0 1 0 1; s.move = .fu .p1 ∧ (numbers s.p1 16 2).framed ∧
      ¬ (s.clk.refSel = 0 ∧ (numbers s.p1 16 2).fs = 64 ∧ (numbers s.p1 16 2).r = 384000) ∧
      (numbers s.p1 16 2).r ≠ 176400 ∧ (numbers s.p1 16 2).r ≠ 352800) := by
  dsimp only; decide

/-- Vectors V7, V3, V5, V9: unknown rate, frame size, missing row, success. -/
theorem witness_DivlLooksUpOrReports :
    (let s := fuTurn (.divl 16 2 1 0) 8000 0 0 0 0; s.move = .fu .p0 ∧ s.p0.rateLatch.toNat ∉ rates) ∧
    (let s := fuTurn (.divl 20 1 0 0) 48000 0 0 0 0; s.move = .fu .p0 ∧ s.p0.rateLatch.toNat ∈ rates ∧
      (20 : BitVec 6).toNat * (1 : BitVec 4).toNat ∉ [16, 32, 48, 64]) ∧
    (let s := fuTurn (.divl 32 2 1 0) 384000 0 0 0 1; s.move = .fu .p0 ∧ s.p0.rateLatch.toNat ∈ rates ∧
      (if (1 : Bit) = 1 then 0 else s.clk.refSel) = 0 ∧ (32 : BitVec 6).toNat * (2 : BitVec 4).toNat = 64 ∧
      s.p0.rateLatch.toNat = 384000) ∧
    (let s := fuTurn (.divl 16 4 1 1) 352800 0 0 0 0; s.move = .fu .p0 ∧ s.p0.rateLatch.toNat ∈ rates ∧
      (16 : BitVec 6).toNat * (4 : BitVec 4).toNat ∈ [16, 32, 48, 64] ∧
      (if (1 : Bit) = 1 then 1 else s.clk.refSel) = 1) := by
  dsimp only; decide

theorem witness_LookupResultsAreExact :
    (∃ t, exec (.fmt 24 2 0) (fuTurn (.fmt 24 2 0) 48000 0 1 0 1) = .next t ∧ (t.port .p0).frm.valid = true) ∧
      (∃ t, exec (.divl 16 2 1 1) (fuTurn (.divl 16 2 1 1) 44100 0 0 0 0) = .next t ∧
        (t.port .p0).frm.valid = true) ∧
      (fuTurn (.fmt 24 2 0) 48000 0 1 0 1).move = .fu .p0 := ⟨⟨_, rfl, rfl⟩, ⟨_, rfl, rfl⟩, rfl⟩

theorem witness_ArbiterStartTakesTheLock :
    ∀ i ∈ [Instr.cfg 3 1, .acq, .rel, .sws 3],
      (arbOffer i).move = .arb .p0 ∧ (arbOffer i).clk.lock = .free ∧ (arbOffer i).arb.seq = .idle ∧
        ((arbOffer i).port .p0).pend = .arbWait := by decide

theorem witness_CfgSteps :
    ((arbCount (.cfg 2 1) .C0 1).ArbTurn .p0 .C0 ∧ (arbCount (.cfg 2 1) .C0 1).clk.reqCnt ≠ 0) ∧
      ((arbTurn (.cfg 2 1) .C0).ArbTurn .p0 .C0 ∧ (arbTurn (.cfg 2 1) .C0).clk.reqCnt = 0) ∧
      (arbTurn (.cfg 2 1) .C1).ArbTurn .p0 .C1 := by decide

/-- The arbiter is at `l` of `i`, the settle wait it is in began at 0, and exactly `n` microseconds have
passed. -/
def arbAt (i : Instr) (l : ArbLabel) (n : Nat) : State := { arbTurn i l with now := n }

/-- The end of a settle wait, to the microsecond. -/
theorem arbAt_wait_over (i : Instr) (l : ArbLabel) (w : WaitName) :
    (arbAt i l (duration w)).ArbTurn .p0 l ∧
      duration w ≤ (arbAt i l (duration w)).now - (arbAt i l (duration w)).arb.wt :=
  ⟨⟨rfl, rfl, rfl⟩, Nat.le_refl _⟩

theorem witness_AcqSteps :
    (∀ l ∈ [ArbLabel.A0, .A1, .A2, .A3, .A5, .A6, .A7], (arbTurn .acq l).ArbTurn .p0 l) ∧
      (0 = 0 ∧ 22579200 % 44100 = 0 ∧ (22579200 % 48000 ≠ 0 ∧ 24576000 % 48000 = 0) ∧
        22579200 % 50000 ≠ 0 ∧ 24576000 % 50000 ≠ 0) ∧
      ((arbAt .acq .A4 (duration .T_REFSEL)).ArbTurn .p0 .A4 ∧
        duration .T_REFSEL ≤ (arbAt .acq .A4 (duration .T_REFSEL)).now - (arbAt .acq .A4 (duration .T_REFSEL)).arb.wt) ∧
      ((arbCount .acq .A6 255).ArbTurn .p0 .A6 ∧ (arbCount .acq .A6 255).clk.reqCnt = 255) ∧
      ((arbCount .acq .A6 254).ArbTurn .p0 .A6 ∧ (arbCount .acq .A6 254).clk.reqCnt ≠ 255) :=
  ⟨by decide, by decide, arbAt_wait_over _ _ _, by decide, by decide⟩

/-- `REL` holds at L2 with its request up, and the power-down for it is done. -/
def relReleased : State :=
  { arbCount .rel .L2 1 with psq := { PsqState.reset with reqArb := true, arbReleased := true } }

theorem witness_RelSteps :
    ((arbCount .rel .L0 0).ArbTurn .p0 .L0 ∧ (arbCount .rel .L0 0).clk.reqCnt = 0) ∧
      ((arbCount .rel .L0 255).ArbTurn .p0 .L0 ∧ (arbCount .rel .L0 255).clk.reqCnt ≠ 0) ∧
      ((arbCount .rel .L1 2).ArbTurn .p0 .L1 ∧ 1 < (arbCount .rel .L1 2).clk.reqCnt.toNat) ∧
      ((arbCount .rel .L1 1).ArbTurn .p0 .L1 ∧ (arbCount .rel .L1 1).clk.reqCnt.toNat ≤ 1) ∧
      ((arbCount .rel .L2 1).ArbTurn .p0 .L2 ∧ (arbCount .rel .L2 1).psq.reqArb = false) ∧
      (({ relPsqTurn .D4 with sched := [.arb .p0] } : State).ArbTurn .p0 .L2 ∧ (relPsqTurn .D4).psq.reqArb = true ∧
        (relPsqTurn .D4).psq.arbReleased = false) ∧
      (relReleased.ArbTurn .p0 .L2 ∧ relReleased.psq.reqArb = true ∧ relReleased.psq.arbReleased = true) ∧
      ∀ l ∈ [ArbLabel.L3, .L4, .L5], (arbTurn .rel l).ArbTurn .p0 l := by decide

theorem witness_SwsSteps : (arbTurn (.sws 3) .W0).ArbTurn .p0 .W0 ∧ (arbTurn (.sws 3) .W1).ArbTurn .p0 .W1 := by
  decide

theorem witness_SwitchTestsItsTarget :
    (∀ i ∈ [Instr.acq, .rel, .sws 0], switchCaller i = true) ∧
      ((arbTo .acq .S0 2 .A5).ArbTurn .p0 .S0 ∧ (arbTo .acq .S0 2 .A5).arb.tgt = sourceCode .ringOscillator) ∧
      ((arbTo .acq .S0 3 .A5).ArbTurn .p0 .S0 ∧ (arbTo .acq .S0 3 .A5).arb.tgt ≠ sourceCode .ringOscillator) ∧
      ∀ tgt : BitVec 2, (arbTo .acq .S1 tgt .A5).ArbTurn .p0 .S1 ∧ (arbTo .acq .S1 tgt .A5).arb.tgt = tgt := by
  decide

/-- The arbiter waits at X4; `n` microseconds have passed. -/
def xtalWaiting (latch : Bool) (n : Nat) : State := { arbAt .acq .X4 n with xtalRdyLatch := latch }

theorem witness_SwitchBringsUpTheCrystal :
    (∀ l ∈ [ArbLabel.X1, .X2, .X3], (arbTurn .acq l).ArbTurn .p0 l) ∧ (arbTurn .acq .X1).clk.xtalBias = 0 ∧
      (({ arbTurn .acq .X1 with clk := { (arbTurn .acq .X1).clk with xtalBias := 1 } } : State).ArbTurn .p0 .X1) ∧
      ((xtalWaiting true 0).ArbTurn .p0 .X4 ∧ (xtalWaiting true 0).xtalRdyLatch = true) ∧
      ((xtalWaiting false 100000).ArbTurn .p0 .X4 ∧ (xtalWaiting false 100000).xtalRdyLatch = false ∧
        100000 ≤ (xtalWaiting false 100000).now - (xtalWaiting false 100000).arb.wt) ∧
      ((xtalWaiting false 99999).ArbTurn .p0 .X4 ∧ (xtalWaiting false 99999).xtalRdyLatch = false ∧
        (xtalWaiting false 99999).now - (xtalWaiting false 99999).arb.wt < 100000) ∧
      ((arbTurn .acq .X5).ArbTurn .p0 .X5 ∧ (arbTurn .acq .X5).arb.got = false) ∧
      (({ arbTurn .acq .X5 with arb := { (arbTurn .acq .X5).arb with got := true } } : State).ArbTurn .p0 .X5) := by
  decide

theorem witness_SwitchToExternalTail :
    (∀ l ∈ [ArbLabel.E6, .E7, .E9], (arbTurn .acq l).ArbTurn .p0 l) ∧
      ((arbAt .acq .E8 (duration .T_SRC_SETTLE)).ArbTurn .p0 .E8 ∧ duration .T_SRC_SETTLE ≤
        (arbAt .acq .E8 (duration .T_SRC_SETTLE)).now - (arbAt .acq .E8 (duration .T_SRC_SETTLE)).arb.wt) :=
  ⟨by decide, arbAt_wait_over _ _ _⟩

theorem witness_SwitchToPllTail :
    (∀ l ∈ [ArbLabel.P6, .P7, .P9], (arbTurn (.sws 1) l).ArbTurn .p0 l) ∧
      ((arbAt (.sws 1) .P8 (duration .T_SRC_SETTLE)).ArbTurn .p0 .P8 ∧ duration .T_SRC_SETTLE ≤
        (arbAt (.sws 1) .P8 (duration .T_SRC_SETTLE)).now - (arbAt (.sws 1) .P8 (duration .T_SRC_SETTLE)).arb.wt) ∧
      ((arbAt (.sws 1) .P10 (duration .T_SRC_SETTLE)).ArbTurn .p0 .P10 ∧ duration .T_SRC_SETTLE ≤
        (arbAt (.sws 1) .P10 (duration .T_SRC_SETTLE)).now - (arbAt (.sws 1) .P10 (duration .T_SRC_SETTLE)).arb.wt) :=
  ⟨by decide, arbAt_wait_over _ _ _, arbAt_wait_over _ _ _⟩

theorem witness_SwitchToRingOscillator :
    (∀ l ∈ [ArbLabel.O1, .O2, .O4], (arbTurn .rel l).ArbTurn .p0 l) ∧
      ((arbAt .rel .O3 (duration .T_SRC_SETTLE)).ArbTurn .p0 .O3 ∧ duration .T_SRC_SETTLE ≤
        (arbAt .rel .O3 (duration .T_SRC_SETTLE)).now - (arbAt .rel .O3 (duration .T_SRC_SETTLE)).arb.wt) :=
  ⟨by decide, arbAt_wait_over _ _ _⟩

/-- `REL` asks for the sequencer, which is idle and moves. -/
def relAsking : State := { relPsqTurn .idle with psq := { PsqState.reset with reqArb := true } }

theorem witness_SequencerStart :
    (∀ i ∈ [Instr.pdn, .pup], (psqOffer i).psq.seq = .idle ∧ (psqOffer i).move = .psq (.port .p0) ∧
      (psqOffer i).psq.owner = .none ∧ ((psqOffer i).port .p0).pend = .psqWait) ∧
    (relAsking.psq.seq = .idle ∧ relAsking.psqMoves = true ∧ relAsking.psq.reqArb = true ∧
      relAsking.psq.arbReleased = false) := by decide

/-- The sequencer is at `l` of the sequence, the wait it is in began at 0, and `n` microseconds have passed. -/
def psqAt (s : State) (n : Nat) : State := { s with now := n }

theorem witness_PowerDownSteps :
    (∀ l ∈ downLabels, (psqTurn .pdn l).PsqTurn (.port .p0) l ∧ (relPsqTurn l).PsqTurn .arb l) ∧
      ((psqAt (psqTurn .pdn .D5) (duration .T_PDN_SETTLE)).PsqTurn (.port .p0) .D5 ∧ duration .T_PDN_SETTLE ≤
        (psqAt (psqTurn .pdn .D5) (duration .T_PDN_SETTLE)).now - (psqTurn .pdn .D5).psq.wt) ∧
      ((psqAt (relPsqTurn .D5) (duration .T_PDN_SETTLE)).PsqTurn .arb .D5 ∧ duration .T_PDN_SETTLE ≤
        (psqAt (relPsqTurn .D5) (duration .T_PDN_SETTLE)).now - (relPsqTurn .D5).psq.wt) :=
  ⟨by decide, ⟨⟨rfl, rfl, rfl⟩, Nat.le_refl _⟩, ⟨rfl, rfl, rfl⟩, Nat.le_refl _⟩

theorem witness_PowerUpSteps :
    (∀ l ∈ upLabels, (psqTurn .pup l).PsqTurn (.port .p0) l) ∧
      (psqAt (psqTurn .pup .U5) (duration .T_DAC_STARTUP)).PsqTurn (.port .p0) .U5 ∧ duration .T_DAC_STARTUP ≤
        (psqAt (psqTurn .pup .U5) (duration .T_DAC_STARTUP)).now - (psqTurn .pup .U5).psq.wt :=
  ⟨by decide, ⟨rfl, rfl, rfl⟩, Nat.le_refl _⟩

/-- One microsecond before the end of each wait, for an arbiter's command, for a sequence of a port, and for
the power-down inside `REL`. -/
theorem witness_SettleWaitsHoldTheEngine :
    (∀ lw ∈ [(ArbLabel.A4, WaitName.T_REFSEL), (.E8, .T_SRC_SETTLE), (.P8, .T_SRC_SETTLE), (.P10, .T_SRC_SETTLE),
        (.O3, .T_SRC_SETTLE)],
      let s := arbAt .rel lw.1 (duration lw.2 - 1)
      s.arb.seq = lw.1 ∧ s.now - s.arb.wt < duration lw.2 ∧ s.arbMoves = true) ∧
    (∀ lw ∈ [(PsqLabel.D5, WaitName.T_PDN_SETTLE), (.U5, .T_DAC_STARTUP)],
      let s := psqAt (psqTurn .pup lw.1) (duration lw.2 - 1)
      s.psq.seq = lw.1 ∧ s.now - s.psq.wt < duration lw.2) ∧
    (let s := psqAt (relPsqTurn .D5) (duration .T_PDN_SETTLE - 1);
      s.psq.seq = .D5 ∧ s.now - s.psq.wt < duration .T_PDN_SETTLE ∧ s.psqMoves = true) := by
  have h : ∀ w, duration w - 1 - 0 < duration w := fun w => by have := duration_ge w; omega
  exact ⟨fun lw _ => ⟨rfl, h _, rfl⟩, fun lw _ => ⟨rfl, h _⟩, rfl, h _, rfl⟩

theorem witness_CrystalReadySetsTheLatch :
    (({ moves .xtal with ctl := { Ctl.reset with xtalPdn := 0 } } : State).move = .xtal ∧
      ({ moves .xtal with ctl := { Ctl.reset with xtalPdn := 0 } } : State).ctl.xtalPdn = 0) ∧
    (moves .xtal).move = .xtal ∧ (moves .xtal).ctl.xtalPdn ≠ 0 := by decide

/-- A move of TIME outside the crystal-ready wait and one a microsecond before its end; a move of another
agent; the step that ends the wait without the ready event. -/
theorem witness_TimeRunsForwardAndTheCrystalWaitIsBounded :
    (TimeInv (moves (.time 5)) ∧ (∃ t, step (moves (.time 5)) = .next t) ∧ (moves (.time 5)).move = .time 5) ∧
    (TimeInv { xtalWaiting false 99999 with sched := [.time 5] } ∧
      (∃ t, step { xtalWaiting false 99999 with sched := [.time 5] } = .next t ∧ t.now = 100000) ∧
      (xtalWaiting false 99999).arb.seq = .X4) ∧
    (TimeInv (psqAt (psqTurn .pdn .D4) 7) ∧ (∃ t, step (psqAt (psqTurn .pdn .D4) 7) = .next t) ∧
      ∀ d, (psqAt (psqTurn .pdn .D4) 7).move ≠ .time d) ∧
    (TimeInv (xtalWaiting false 100000) ∧
      ∃ t, step (xtalWaiting false 100000) = .next t ∧ t.arb.seq = .X5 ∧ t.arb.got = false) :=
  ⟨⟨by unfold TimeInv; decide, ⟨_, rfl⟩, rfl⟩, ⟨by unfold TimeInv; decide, ⟨_, rfl, rfl⟩, rfl⟩,
    ⟨by unfold TimeInv; decide, ⟨_, rfl⟩, fun d h => by cases h⟩, by unfold TimeInv; decide, _, rfl, rfl, rfl⟩

theorem witness_StepRunsTheDecodedCommand :
    (decode ((fuTurn .nop 0 0 0 0 0).port .p0).cmdLatch = .ok .nop ∧ (fuTurn .nop 0 0 0 0 0).move = .fu .p0 ∧
      ((fuTurn .nop 0 0 0 0 0).port .p0).pend = .fu) ∧
    (decode ((arbTurn .acq .A0).port .p0).cmdLatch = .ok .acq ∧ (arbTurn .acq .A0).arbMoves = true ∧
      (arbTurn .acq .A0).clk.lock = .held .p0) ∧
    (decode ((arbOffer .acq).port .p0).cmdLatch = .ok .acq ∧ (arbOffer .acq).move = .arb .p0 ∧
      (arbOffer .acq).clk.lock = .free ∧ (arbOffer .acq).arb.seq = .idle ∧
      ((arbOffer .acq).port .p0).pend = .arbWait) ∧
    (decode ((psqTurn .pdn .D1).port .p0).cmdLatch = .ok .pdn ∧ (psqTurn .pdn .D1).psqMoves = true ∧
      (psqTurn .pdn .D1).psq.owner = .port .p0) ∧
    (decode ((relPsqTurn .D1).port .p0).cmdLatch = .ok .rel ∧ (relPsqTurn .D1).psqMoves = true ∧
      (relPsqTurn .D1).psq.owner = .arb ∧ (relPsqTurn .D1).clk.lock = .held .p0) ∧
    (decode ((psqOffer .pup).port .p0).cmdLatch = .ok .pup ∧ (psqOffer .pup).move = .psq (.port .p0) ∧
      (psqOffer .pup).psq.owner = .none ∧ (psqOffer .pup).psq.seq = .idle ∧
      ((psqOffer .pup).port .p0).pend = .psqWait) ∧
    (decode (relAsking.port .p0).cmdLatch = .ok .rel ∧ relAsking.move = .psq .arb ∧ relAsking.psq.owner = .none ∧
      relAsking.psq.seq = .idle ∧ relAsking.psq.reqArb = true ∧ relAsking.psq.arbReleased = false ∧
      relAsking.clk.lock = .held .p0) ∧
    decode (BitVec.ofNat 32 0x30000003) = .ok (.sws 3) := by
  refine ⟨⟨rfl, rfl, rfl⟩, ⟨rfl, rfl, rfl⟩, ⟨rfl, rfl, rfl, rfl, rfl⟩, ⟨rfl, rfl, rfl⟩, ⟨rfl, rfl, rfl, rfl⟩,
    ⟨rfl, rfl, rfl, rfl, rfl⟩, ⟨rfl, rfl, rfl, rfl, rfl, rfl, rfl⟩, rfl⟩

/-- The last clause in both ways: no request, and a request already served. -/
theorem witness_NothingDueNothingDone :
    ((moves (.fu .p0)).move = .fu .p0 ∧ ((moves (.fu .p0)).port .p0).pend ≠ .fu) ∧
    ((moves (.arb .p1)).move = .arb .p1 ∧ (moves (.arb .p1)).clk.lock = .free ∧ (moves (.arb .p1)).arb.seq = .idle ∧
      ((moves (.arb .p1)).port .p1).pend ≠ .arbWait) ∧
    ((moves (.psq (.port .p0))).move = .psq (.port .p0) ∧ (moves (.psq (.port .p0))).psq.owner = .none ∧
      (moves (.psq (.port .p0))).psq.seq = .idle ∧ ((moves (.psq (.port .p0))).port .p0).pend ≠ .psqWait) ∧
    ((moves (.psq .arb)).move = .psq .arb ∧ (moves (.psq .arb)).psq.owner = .none ∧
      (moves (.psq .arb)).psq.seq = .idle ∧ (moves (.psq .arb)).psq.reqArb = false) ∧
    (({ relReleased with sched := [.psq .arb] } : State).move = .psq .arb ∧ relReleased.psq.owner = .none ∧
      relReleased.psq.seq = .idle ∧ relReleased.psq.arbReleased = true) := by decide

/-! #### Runs -/

/-- The run from `s` in which the environment schedules the move `μ n` at the `n`-th step. -/
def driven (s : State) (μ : Nat → Move) : Nat → State
  | 0 => { s with sched := [μ 0] }
  | n + 1 =>
    match step (driven s μ n) with
    | .next t => { t with sched := [μ (n + 1)] }
    | _ => { driven s μ n with sched := [μ (n + 1)] }

/-- What one step of a driven run makes. -/
theorem driven_succ {s t : State} {μ : Nat → Move} {n : Nat} (h : step (driven s μ n) = .next t) :
    driven s μ (n + 1) = { t with sched := [μ (n + 1)] } := by
  rw [driven, h]

/-- The moves of a driven run are the scheduled ones. -/
theorem driven_move (s : State) (μ : Nat → Move) (n : Nat) : (driven s μ n).move = μ n := by
  cases n with
  | zero => rfl
  | succ n => rw [driven]; split <;> rfl

/-- A driven run none of whose steps stops is a run. -/
theorem driven_isRun {s : State} {μ : Nat → Move} (h : ∀ n, ∃ t, step (driven s μ n) = .next t) :
    IsRun (driven s μ) := fun n => by
  obtain ⟨t, ht⟩ := h n
  exact ⟨t, ht, by rw [driven_succ ht]⟩

/-- No command waits or runs, and both engines are idle. -/
structure AllIdle (s : State) : Prop where
  pend0 : s.p0.pend = .none
  pend1 : s.p1.pend = .none
  lock : s.clk.lock = .free
  seq : s.arb.seq = .idle
  psq : s.psq.seq = .idle
  owner : s.psq.owner = .none
  request : s.psq.reqArb = false

/-- The seven engine moves and a microsecond, round and round. -/
def roundRobin (n : Nat) : Move :=
  match n % 8 with
  | 0 => .fu .p0
  | 1 => .fu .p1
  | 2 => .arb .p0
  | 3 => .arb .p1
  | 4 => .psq (.port .p0)
  | 5 => .psq (.port .p1)
  | 6 => .psq .arb
  | _ => .time 1

/-- Every engine move comes round. -/
theorem roundRobin_engine {m : Move} (h : engineMove m = true) : ∃ i < 8, ∀ n, roundRobin (8 * n + i) = m := by
  have key : ∀ i < 8, ∀ n, roundRobin (8 * n + i) = roundRobin i := fun i hi n => by
    simp only [roundRobin, Nat.mul_add_mod]
  match m with
  | .fu .p0 => exact ⟨0, by omega, key 0 (by omega)⟩
  | .fu .p1 => exact ⟨1, by omega, key 1 (by omega)⟩
  | .arb .p0 => exact ⟨2, by omega, key 2 (by omega)⟩
  | .arb .p1 => exact ⟨3, by omega, key 3 (by omega)⟩
  | .psq (.port .p0) => exact ⟨4, by omega, key 4 (by omega)⟩
  | .psq (.port .p1) => exact ⟨5, by omega, key 5 (by omega)⟩
  | .psq .arb => exact ⟨6, by omega, key 6 (by omega)⟩
  | .host _ => cases h
  | .xtal => cases h
  | .time _ => cases h
  | .rst => cases h

/-- In an idle state such a move changes nothing but the time. -/
theorem step_allIdle {s : State} {n : Nat} (hi : AllIdle s) (hm : s.move = roundRobin n) :
    step s = .next (if n % 8 = 7 then s.passTime 1 else s).advance := by
  have hn : n % 8 < 8 := Nat.mod_lt _ (by omega)
  simp only [roundRobin] at hm
  generalize n % 8 = r at *
  interval_cases r <;>
    simp [step, hm, State.dueFu, State.dueArb, State.duePsq, hi.pend0, hi.pend1, hi.lock, hi.seq, hi.psq, hi.owner, hi.request,
      runDue]

/-- Port 0 waits for the arbiter with a `CFG`, port 1 for the sequencer with a `PDN`. -/
def bothWait : State := { State.reset with p0 := running (.cfg 2 1) .arbWait, p1 := running .pdn .psqWait }

/-- Both commands run to their ends, then the moves go round. -/
def fairMoves (n : Nat) : Move :=
  if n < 3 then .arb .p0
  else if n < 8 then .psq (.port .p1)
  else if n = 8 then .time 99000
  else if n < 11 then .psq (.port .p1)
  else roundRobin n

theorem fair_start : ∀ n < 11, ∃ t, step (driven bothWait fairMoves n) = .next t := by
  intro n hn
  interval_cases n <;> exact ⟨_, rfl⟩

theorem fairMoves_late (n : Nat) : fairMoves (n + 11) = roundRobin (n + 11) := by
  simp only [fairMoves]
  rw [if_neg (by omega), if_neg (by omega), if_neg (by omega), if_neg (by omega)]

/-- From step 11 on the run is idle, and time goes on. -/
theorem fair_idle (n : Nat) : AllIdle (driven bothWait fairMoves (n + 11)) ∧
    (n + 11) / 8 ≤ (driven bothWait fairMoves (n + 11)).now := by
  induction n with
  | zero => exact ⟨⟨rfl, rfl, rfl, rfl, rfl, rfl, rfl⟩, by decide⟩
  | succ n ih =>
    obtain ⟨hi, hn⟩ := ih
    have hs := step_allIdle hi ((driven_move _ _ _).trans (fairMoves_late n))
    rw [Nat.add_right_comm, driven_succ hs]
    split
    · exact ⟨⟨hi.pend0, hi.pend1, hi.lock, hi.seq, hi.psq, hi.owner, hi.request⟩, by
        show _ ≤ (driven bothWait fairMoves (n + 11)).now + State.timeStep _ 1
        rw [State.timeStep_of_ne (by rw [hi.seq]; decide)]; omega⟩
    · exact ⟨⟨hi.pend0, hi.pend1, hi.lock, hi.seq, hi.psq, hi.owner, hi.request⟩, by
        show _ ≤ (driven bothWait fairMoves (n + 11)).now; omega⟩

/-- The run is fair. -/
theorem fair_run : FairRun (driven bothWait fairMoves) := by
  constructor
  · refine driven_isRun fun n => ?_
    by_cases h : n < 11
    · exact fair_start n h
    · obtain ⟨m, rfl⟩ : ∃ m, n = m + 11 := ⟨n - 11, by omega⟩
      exact ⟨_, step_allIdle (fair_idle m).1 ((driven_move _ _ _).trans (fairMoves_late m))⟩
  · intro m hm n
    obtain ⟨i, hi, hr⟩ := roundRobin_engine hm
    obtain ⟨k, hk⟩ : ∃ k, 8 * (n + 2) + i = k + 11 := ⟨8 * (n + 2) + i - 11, by omega⟩
    exact ⟨8 * (n + 2) + i, by omega, .inl (by rw [driven_move, hk, fairMoves_late, ← hk, hr])⟩
  · intro m _ h
    obtain ⟨k, hk, hg⟩ := h 11
    obtain ⟨j, rfl⟩ : ∃ j, k = j + 11 := ⟨k - 11, by omega⟩
    have hi := (fair_idle j).1
    exfalso
    unfold State.canGrant at hg
    split at hg
    · rename_i p
      cases p <;> simp [State.port, hi.pend0, hi.pend1] at hg
    · rename_i p
      cases p <;> simp [State.port, hi.pend0, hi.pend1] at hg
    · simp [hi.request] at hg
    · cases hg
  · intro d
    exact ⟨8 * d + 11, by have := (fair_idle (8 * d)).2; omega⟩

/-- At the start a command waits for each engine. -/
theorem witness_FairRunsGrantAndEndEveryCommand :
    FairRun (driven bothWait fairMoves) ∧ SeqInv (driven bothWait fairMoves 0) ∧
      ((driven bothWait fairMoves 0).port .p0).pend = .arbWait ∧
      ((driven bothWait fairMoves 0).port .p1).pend = .psqWait ∧
      ((driven bothWait fairMoves 0).port .p0).status.busy = true :=
  ⟨fair_run, by constructor <;> (try constructor) <;> decide, rfl, rfl, rfl⟩

/-- A switch powers the crystal up; it signals, and the switch goes on; then time passes. -/
def crystalMoves : Nat → Move
  | 0 => .arb .p0
  | 1 => .arb .p0
  | 2 => .xtal
  | 3 => .arb .p0
  | 4 => .arb .p0
  | _ => .time 1

/-- The run of an `SWS` to EXTERNAL at step X2 under those moves. -/
def crystalRun : Nat → State := driven (arbTo (.sws 0) .X2 0 .W1) crystalMoves

theorem crystal_isRun : IsRun crystalRun := by
  refine driven_isRun fun n => ?_
  match n with
  | 0 => exact ⟨_, rfl⟩
  | 1 => exact ⟨_, rfl⟩
  | 2 => exact ⟨_, rfl⟩
  | 3 => exact ⟨_, rfl⟩
  | 4 => exact ⟨_, rfl⟩
  | n + 5 => exact ⟨_, by rw [step, driven_move]; rfl⟩

/-- The arbiter moves at X2 and at X3 once each. -/
theorem crystal_turns {p : Port} {n : Nat} {l : ArbLabel} (h : (crystalRun n).ArbTurn p l) :
    (l = .X2 → n = 0) ∧ (l = .X3 → n = 1) := by
  match n with
  | 0 => exact ⟨fun _ => rfl, fun e => by rw [e] at h; exact absurd h.2.2 (by decide)⟩
  | 1 => exact ⟨fun e => by rw [e] at h; exact absurd h.2.2 (by decide), fun _ => rfl⟩
  | 2 => exact absurd h.1 (by decide)
  | 3 =>
    exact ⟨fun e => by rw [e] at h; exact absurd h.2.2 (by decide),
      fun e => by rw [e] at h; exact absurd h.2.2 (by decide)⟩
  | 4 =>
    exact ⟨fun e => by rw [e] at h; exact absurd h.2.2 (by decide),
      fun e => by rw [e] at h; exact absurd h.2.2 (by decide)⟩
  | n + 5 =>
    have hm : (crystalRun (n + 5)).move = .time 1 := driven_move _ _ _
    have ha := h.1
    rw [State.arbMoves, hm] at ha
    cases ha

/-- The crystal's step falls between X3 and X4. -/
theorem witness_XtalStartsRulesOutTheTimeout :
    IsRun crystalRun ∧ SeqInv (crystalRun 0) ∧ XtalStarts crystalRun ∧ PowersUp crystalRun .p0 0 1 ∧
      (∀ l, 1 < l → l ≤ 4 → (crystalRun l).arb.seq ∈ [.X4, .X5]) ∧ (crystalRun 4).ArbTurn .p0 .X5 := by
  refine ⟨crystal_isRun, by constructor <;> (try constructor) <;> decide, fun p i j h => ?_, ?_, ?_, by decide⟩
  · obtain rfl := (crystal_turns h.powerUp).1 rfl
    obtain rfl := (crystal_turns h.arm).2 rfl
    exact ⟨2, by omega, by decide, .inl ⟨rfl, rfl⟩⟩
  · refine ⟨by omega, by decide, rfl, by decide, fun m h1 h2 => ?_⟩
    obtain rfl : m = 1 := by omega
    rfl
  · intro l h1 h2
    interval_cases l <;> decide

/-- Good states in the middle of commands. -/
theorem seqInv_rel_in_power_down : SeqInv (relPsqTurn .D4) := by
  constructor <;> (try constructor) <;> decide
theorem seqInv_acq_last_step : SeqInv (arbCount .acq .A7 1) := by
  constructor <;> (try constructor) <;> decide
theorem seqInv_pdn_last_step : SeqInv (psqTurn .pdn .D6) := by
  constructor <;> (try constructor) <;> decide
theorem seqInv_acq_in_switch : SeqInv (arbTo .acq .E6 0 .A5) := by
  constructor <;> (try constructor) <;> decide

theorem witness_SequencingIsKeptAndNothingStops : SeqInv (relPsqTurn .D4) ∧ SeqInv (psqTurn .pdn .D6) :=
  ⟨seqInv_rel_in_power_down, seqInv_pdn_last_step⟩

theorem witness_LockFreedOnlyAtTheEnd :
    SeqInv (arbCount .acq .A7 1) ∧ (arbCount .acq .A7 1).clk.lock = .held .p0 ∧
      ∃ t, step (arbCount .acq .A7 1) = .next t ∧ t.clk.lock ≠ .held .p0 :=
  ⟨seqInv_acq_last_step, rfl, _, rfl, by decide⟩

theorem targetInv_acq_in_switch : TargetInv (arbTo .acq .E6 0 .A5) := by constructor <;> decide
theorem countInv_acq_in_switch : CountInv (arbTo .acq .E6 0 .A5) := by constructor <;> decide

theorem witness_TargetAndCountAreKept :
    TargetInv (arbTo .acq .E6 0 .A5) ∧ CountInv (arbTo .acq .E6 0 .A5) ∧
      ∃ t, step (arbTo .acq .E6 0 .A5) = .next t :=
  ⟨targetInv_acq_in_switch, countInv_acq_in_switch, _, rfl⟩

theorem witness_SwitchErrorsPerCaller :
    (TargetInv (arbTo .rel .S1 2 .L5) ∧ (arbTo .rel .S1 2 .L5).ArbTurn .p0 .S1 ∧ ArbLabel.S1 ∈ switchLabels ∧
      (arbTo .rel .S1 2 .L5).arb.ret = .L5) ∧
    (TargetInv (arbTo .acq .X5 0 .A5) ∧ (arbTo .acq .X5 0 .A5).ArbTurn .p0 .X5 ∧ ArbLabel.X5 ∈ switchLabels ∧
      (arbTo .acq .X5 0 .A5).arb.ret = .A5) := by
  refine ⟨⟨?_, by decide⟩, ?_, by decide⟩ <;> constructor <;> decide

/-- The word of an `SWS`, written by the host to the `CMD` register of a busy port and to `ARG_RATE` of the
other, issues none; written to the `CMD` register of the other port, it does. -/
theorem test_issuesSws :
    ({ arbTo .acq .E6 0 .A5 with sched := [.host (.write 4 0x00 0x30000001)] } : State).issuesSws = false ∧
      ({ arbTo .acq .E6 0 .A5 with sched := [.host (.write 4 0x44 0x30000001)] } : State).issuesSws = false ∧
      ({ arbTo .acq .E6 0 .A5 with sched := [.host (.write 4 0x40 0x30000001)] } : State).issuesSws = true :=
  ⟨rfl, rfl, rfl⟩

theorem witness_CountAndSourceAgree :
    SeqInv (arbTo .acq .E6 0 .A5) ∧ TargetInv (arbTo .acq .E6 0 .A5) ∧ CountInv (arbTo .acq .E6 0 .A5) ∧
      ClockInv (arbTo .acq .E6 0 .A5) ∧ (arbTo .acq .E6 0 .A5).issuesSws = false ∧
      ∃ t, step (arbTo .acq .E6 0 .A5) = .next t :=
  ⟨seqInv_acq_in_switch, targetInv_acq_in_switch, countInv_acq_in_switch, by constructor <;> decide, rfl, _, rfl⟩

theorem witness_PathIsDownWithoutRequests :
    SeqInv (relPsqTurn .D4) ∧ CountInv (relPsqTurn .D4) ∧ PathInv (relPsqTurn .D4) ∧ (relPsqTurn .D4).pupCovered ∧
      ∃ t, step (relPsqTurn .D4) = .next t :=
  ⟨seqInv_rel_in_power_down, by constructor <;> decide, by constructor <;> decide,
    by unfold State.pupCovered; decide, _, rfl⟩

theorem witness_OutputsAreKept :
    OutputInv (arbTurn .acq .X3) ∧ ∃ t, step (arbTurn .acq .X3) = .next t :=
  ⟨by unfold OutputInv; decide, _, rfl⟩

/-- A move of the host, which is neither engine's; a state in which both premises about the pins hold. -/
theorem witness_EachControlFieldHasOneWriter :
    SeqInv (psqTurn .pdn .D6) ∧ (∃ t, step (psqTurn .pdn .D6) = .next t) ∧ (psqTurn .pdn .D6).move ≠ .rst ∧
      (psqTurn .pdn .D6).arbMoves = false ∧ (psqTurn .pdn .D6).ctl.mute = 1 ∧
      (SeqInv (arbTo .acq .E6 0 .A5) ∧ (∃ t, step (arbTo .acq .E6 0 .A5) = .next t) ∧
        (arbTo .acq .E6 0 .A5).move ≠ .rst ∧ (arbTo .acq .E6 0 .A5).psqMoves = false) ∧
      ({ moves (.fu .p0) with ctl := { Ctl.reset with asp3st := 0 } } : State).ctl.asp3st = 0 :=
  ⟨seqInv_pdn_last_step, ⟨_, rfl⟩, by decide, rfl, rfl,
    ⟨seqInv_acq_in_switch, ⟨_, rfl⟩, by decide, rfl⟩, rfl⟩

theorem witness_ReferenceFixedWhileCounted :
    CountInv (arbCount .acq .A0 1) ∧ (arbCount .acq .A0 1).clk.reqCnt ≠ 0 ∧ (arbCount .acq .A0 1).move ≠ .rst ∧
      ∃ t, step (arbCount .acq .A0 1) = .next t := ⟨by constructor <;> decide, by decide, by decide, _, rfl⟩

/-! #### Whole commands -/

/-- Port 0 waits for the arbiter with `i` and a rate; clock state as given. -/
def waiting (i : Instr) (rate : Word) (c : ClockState) : State :=
  { State.reset with p0 := { running i .arbWait with rateLatch := rate }, clk := c }

theorem witness_CfgRun :
    (let s := waiting (.cfg 2 1) 0 ClockState.reset;
      s.clk.lock = .free ∧ s.arb.seq = .idle ∧ (s.port .p0).pend = .arbWait ∧
        decode (s.port .p0).cmdLatch = .ok (.cfg 2 1) ∧ s.clk.reqCnt = 0) ∧
    (let s := waiting (.cfg 2 1) 0 { ClockState.reset with reqCnt := 255 };
      s.clk.lock = .free ∧ s.arb.seq = .idle ∧ (s.port .p0).pend = .arbWait ∧
        decode (s.port .p0).cmdLatch = .ok (.cfg 2 1) ∧ s.clk.reqCnt ≠ 0) :=
  ⟨⟨rfl, rfl, rfl, rfl, rfl⟩, rfl, rfl, rfl, rfl, by decide⟩

/-- The premises shared by the three runs of `ACQ`. -/
abbrev acqReady (s : State) (k : Bit) : Prop :=
  s.clk.lock = .free ∧ s.arb.seq = .idle ∧ (s.port .p0).pend = .arbWait ∧ s.clk.reqCnt = 0 ∧ s.clk.pllBypass = 1 ∧
    s.clk.clkSrc ≠ .external ∧ pickReference (s.port .p0).rateLatch.toNat = some k

theorem witness_AcqRunWithCrystalUnused :
    acqReady (waiting .acq 44100 ClockState.reset) 0 ∧ (waiting .acq 44100 ClockState.reset).clk.xtalBias = 0 ∧
      decode ((waiting .acq 44100 ClockState.reset).port .p0).cmdLatch = .ok .acq := ⟨by decide, rfl, rfl⟩
theorem witness_AcqRunWithCrystalReady :
    acqReady (waiting .acq 48000 { ClockState.reset with xtalBias := 1 }) 1 ∧
      (waiting .acq 48000 { ClockState.reset with xtalBias := 1 }).clk.xtalBias ≠ 0 ∧
      decode ((waiting .acq 48000 { ClockState.reset with xtalBias := 1 }).port .p0).cmdLatch = .ok .acq :=
  ⟨by decide, by decide, rfl⟩
theorem witness_AcqRunTimesOut :
    acqReady (waiting .acq 44100 { ClockState.reset with xtalBias := 3 }) 0 ∧
      (waiting .acq 44100 { ClockState.reset with xtalBias := 3 }).clk.xtalBias ≠ 0 ∧
      decode ((waiting .acq 44100 { ClockState.reset with xtalBias := 3 }).port .p0).cmdLatch = .ok .acq :=
  ⟨by decide, by decide, rfl⟩

/-- Port 0 waits to release the only request; the source is EXTERNAL. -/
def releasing : State := waiting .rel 0 { ClockState.reset with reqCnt := 1, clkSrc := .external }

theorem witness_RelRunToZero :
    releasing.clk.lock = .free ∧ releasing.arb.seq = .idle ∧ (releasing.port .p0).pend = .arbWait ∧
      decode (releasing.port .p0).cmdLatch = .ok .rel ∧ releasing.clk.reqCnt = 1 ∧
      releasing.clk.clkSrc ≠ .ringOscillator ∧ releasing.psq.seq = .idle ∧ releasing.psq.owner = .none ∧
      releasing.psq.reqArb = false ∧ releasing.psq.arbReleased = false :=
  ⟨rfl, rfl, rfl, rfl, rfl, by decide, rfl, rfl, rfl, rfl⟩

theorem witness_SwsRunToPll :
    (waiting (.sws 1) 0 ClockState.reset).clk.lock = .free ∧ (waiting (.sws 1) 0 ClockState.reset).arb.seq = .idle ∧
      ((waiting (.sws 1) 0 ClockState.reset).port .p0).pend = .arbWait ∧
      decode ((waiting (.sws 1) 0 ClockState.reset).port .p0).cmdLatch = .ok (.sws 1) ∧
      (waiting (.sws 1) 0 ClockState.reset).clk.xtalBias = 0 ∧
      (waiting (.sws 1) 0 ClockState.reset).clk.clkSrc ≠ .pll := ⟨rfl, rfl, rfl, rfl, rfl, by decide⟩

theorem witness_SequencerRuns :
    (∀ i ∈ [Instr.pdn, .pup], (psqOffer i).psq.seq = .idle ∧ (psqOffer i).psq.owner = .none ∧
      ((psqOffer i).port .p0).pend = .psqWait) ∧
      decode ((psqOffer .pdn).port .p0).cmdLatch = .ok .pdn ∧ decode ((psqOffer .pup).port .p0).cmdLatch = .ok .pup ∧
      (∀ i ∈ [Instr.pdn, .pup], (psqOffer i).arb.seq ≠ .X4) ∧
      (({ psqOffer .pdn with arb := { ArbState.reset with seq := .X4 } } : State).now + duration .T_PDN_SETTLE ≤
        ({ psqOffer .pdn with arb := { ArbState.reset with seq := .X4 } } : State).arb.wt + xtalTimeout) :=
  ⟨by decide, rfl, rfl, by decide, by
    have h : duration .T_PDN_SETTLE ≤ 99000 := duration_le rfl
    show 0 + duration .T_PDN_SETTLE ≤ 0 + 100000
    omega⟩

end Sys2Proof.Tests
end

section
/-! PROOFS. Family 00, scope: the settle waits hold their engine (O37), and only `TIME` moves time, with the
crystal-ready wait bounded (O40). Before them, once for both: what a held engine answers, and an inversion of
`exec` (`exec_next`) with what a move that is not `TIME`'s does to the waits (`WaitsKept`). -/

namespace Sys2Proof.Machine

/-! ### A held engine (rule R180) -/

/-- Inside a settle wait the arbiter is not ready. -/
theorem State.arbReady_of_pending {s : State} {w : WaitName} (hw : arbWaitBefore s.arb.seq = some w)
    (hlt : s.now - s.arb.wt < duration w) : s.arbReady = false := by
  have hover : ¬ waitOver w (s.now - s.arb.wt) = true := by rw [waitOver_iff]; omega
  simpa [State.arbReady, hw] using hover

/-- Inside a settle wait the sequencer is not ready. -/
theorem State.psqReady_of_pending {s : State} {w : WaitName} (hw : psqWaitBefore s.psq.seq = some w)
    (hlt : s.now - s.psq.wt < duration w) : s.psqReady = false := by
  have hover : ¬ waitOver w (s.now - s.psq.wt) = true := by rw [waitOver_iff]; omega
  simpa [State.psqReady, hw] using hover

/-- An arbiter that is not ready makes a move without effect. -/
theorem arbCommand_held {s : State} (h : s.arbReady = false) (l : ArbLabel) (n : Except Fault State) :
    arbCommand l n s = .next s.advance := by
  simp [arbCommand, h]

/-- A sequencer that is not ready makes a move without effect. -/
theorem psqCommand_held {s : State} (h : s.psqReady = false) (b : State) (n : Except Fault State) :
    psqCommand b n s = .next s.advance := by
  simp [psqCommand, h]

/-- An arbiter that is not ready holds each of its commands. -/
theorem exec_held_of_arb {s : State} (h : s.arbReady = false) :
    (∀ b y, exec (.cfg b y) s = .next s.advance) ∧ exec .acq s = .next s.advance ∧
      (s.arbMoves = true → exec .rel s = .next s.advance) ∧ ∀ tgt, exec (.sws tgt) s = .next s.advance :=
  ⟨fun _ _ => arbCommand_held h _ _, arbCommand_held h _ _,
    fun hm => (execRel_arb (State.psqMoves_of_arb hm)).trans (arbCommand_held h _ _),
    fun _ => arbCommand_held h _ _⟩

/-- A sequencer that is not ready holds both its commands and the power-down inside `REL`. -/
theorem exec_held_of_psq {s : State} (h : s.psqReady = false) :
    exec .pdn s = .next s.advance ∧ exec .pup s = .next s.advance ∧
      (s.psqMoves = true → exec .rel s = .next s.advance) :=
  ⟨psqCommand_held h _ _, psqCommand_held h _ _, fun hm => (execRel_psq hm).trans (psqCommand_held h _ _)⟩

/-- Settles O37: each waiting label finds its engine not ready, and an engine that is not ready holds its
commands; the bounds are those of the parameters. -/
theorem settleWaitsHoldTheEngine : Obligations.SettleWaitsHoldTheEngine := by
  refine ⟨fun w hw => ⟨duration_ge w, ?_⟩, ?_, dacStartup_ge, ?_, ?_⟩
  · have hbound : durationBound w = some maxSettle := by revert w; decide
    exact duration_le hbound
  · exact lt_of_lt_of_le duration_pdnSettle_lt (min_le_left _ _)
  · intro s l w hlw hl hlt
    have hbefore : ∀ x ∈ [(ArbLabel.A4, WaitName.T_REFSEL), (.E8, .T_SRC_SETTLE), (.P8, .T_SRC_SETTLE),
        (.P10, .T_SRC_SETTLE), (.O3, .T_SRC_SETTLE)], arbWaitBefore x.1 = some x.2 := by decide
    exact exec_held_of_arb (State.arbReady_of_pending (hl ▸ hbefore _ hlw) hlt)
  · intro s l w hlw hl hlt
    have hbefore : ∀ x ∈ [(PsqLabel.D5, WaitName.T_PDN_SETTLE), (.U5, .T_DAC_STARTUP)],
        psqWaitBefore x.1 = some x.2 := by decide
    exact exec_held_of_psq (State.psqReady_of_pending (hl ▸ hbefore _ hlw) hlt)

/-! ### Everything a command's step can be -/

/-- What one step of a command makes of a state, before the move is counted: nothing inside a settle wait; a
start of the arbiter; a step of its listings; a start of the sequencer; a step of its two sequences; the end of
a format unit's command. -/
inductive ExecStep (s : State) : State → Prop where
  | held : ExecStep s s
  | arbStart (p : Port) {l : ArbLabel} (hl : l ∈ [.C0, .A0, .L0, .W0]) : ExecStep s (s.arbStart p l)
  | arb {p : Port} {u : State} (h : ArbStep s p u) : ExecStep s u
  | psqStartPort (p : Port) (l : PsqLabel) : ExecStep s (s.psqStartPort p l)
  | psqStartArb : ExecStep s s.psqStartArb
  | powerDown {u : State} (h : s.powerDownStep = .ok u) : ExecStep s u
  | powerUp {u : State} (h : s.powerUpStep = .ok u) : ExecStep s u
  | fuEnd (p : Port) (q : PortState) (code : BitVec 4) : ExecStep s ((s.setPort p q).log (.complete p code))

/-- A move of the arbiter is one of its kinds of steps when its listing's steps are. -/
theorem execStep_of_arbCommand {l : ArbLabel} {n : Except Fault State} {s t : State}
    (hl : l ∈ [ArbLabel.C0, .A0, .L0, .W0]) (hn : ∀ u, n = .ok u → ArbStep s s.execPort u)
    (h : arbCommand l n s = .next t) : ∃ u, ExecStep s u ∧ t = u.advance := by
  obtain ⟨-, rfl⟩ | ⟨-, rfl⟩ | ⟨-, -, u, hu, rfl⟩ := arbCommand_next h
  · exact ⟨s, .held, rfl⟩
  · exact ⟨_, .arbStart _ hl, rfl⟩
  · exact ⟨u, .arb (hn u hu), rfl⟩

/-- A move of the sequencer is one of its kinds of steps when its start and its sequence's steps are. -/
theorem execStep_of_psqCommand {b : State} {n : Except Fault State} {s t : State} (hb : ExecStep s b)
    (hn : ∀ u, n = .ok u → ExecStep s u) (h : psqCommand b n s = .next t) :
    ∃ u, ExecStep s u ∧ t = u.advance := by
  obtain ⟨-, rfl⟩ | ⟨-, rfl⟩ | ⟨-, -, u, hu, rfl⟩ := psqCommand_next h
  · exact ⟨s, .held, rfl⟩
  · exact ⟨b, hb, rfl⟩
  · exact ⟨u, hn u hu, rfl⟩

/-- A format unit's command ends in its one step. -/
theorem execStep_of_fu {i : Instr} {s t : State} (hi : instrEngine i = .fu) (h : exec i s = .next t) :
    ∃ u, ExecStep s u ∧ t = u.advance := by
  obtain ⟨q, code, -, -, -, -, rfl⟩ := execFu_next hi h
  exact ⟨_, .fuEnd _ q code, rfl⟩

/-- Everything `exec` can answer with a next state, for every command. -/
theorem exec_next {i : Instr} {s t : State} (h : exec i s = .next t) : ∃ u, ExecStep s u ∧ t = u.advance := by
  cases i with
  | nop => exact execStep_of_fu rfl h
  | sfmt => exact execStep_of_fu rfl h
  | sclk => exact execStep_of_fu rfl h
  | fmt => exact execStep_of_fu rfl h
  | divl => exact execStep_of_fu rfl h
  | cfg b y => exact execStep_of_arbCommand (by decide) (fun _ hu => .cfg b y hu) h
  | acq => exact execStep_of_arbCommand (by decide) (fun _ hu => .acq hu) h
  | sws tgt => exact execStep_of_arbCommand (by decide) (fun _ hu => .sws tgt hu) h
  | pdn => exact execStep_of_psqCommand (.psqStartPort _ _) (fun _ hu => .powerDown hu) h
  | pup => exact execStep_of_psqCommand (.psqStartPort _ _) (fun _ hu => .powerUp hu) h
  | rel =>
    have h : execRel s = .next t := h
    cases hm : s.psqMoves with
    | true => exact execStep_of_psqCommand .psqStartArb (fun _ hu => .powerDown hu) (execRel_psq hm ▸ h)
    | false => exact execStep_of_arbCommand (by decide) (fun _ hu => .rel hu) (execRel_arb hm ▸ h)

/-! ### Starts and the waits -/

/-- What the start of an arbiter command leaves alone: time, the sequencer, and of the arbiter all but the
step register. -/
theorem State.arbStart_kept (s : State) (p : Port) (l : ArbLabel) :
    (s.arbStart p l).now = s.now ∧ (s.arbStart p l).psq = s.psq ∧
      ((s.arbStart p l).arb = s.arb ∨ (s.arbStart p l).arb = { s.arb with seq := l }) := by
  unfold State.arbStart
  split <;> simp

/-- The start of a sequence for a port, enabled or not, leaves time, the arbiter and the wait alone. -/
theorem State.psqStartPort_kept (s : State) (p : Port) (l : PsqLabel) :
    (s.psqStartPort p l).now = s.now ∧ (s.psqStartPort p l).arb = s.arb ∧
      (s.psqStartPort p l).psq.wt = s.psq.wt := by
  unfold State.psqStartPort
  split
  · obtain ⟨-, harb, -, -, -, hnow, -, -, hpsq⟩ := s.psqStart_kept (.port p) l
    exact ⟨hnow, harb, by rw [hpsq]⟩
  · exact ⟨rfl, rfl, rfl⟩

/-- So does the start of the power-down inside `REL`. -/
theorem State.psqStartArb_kept (s : State) :
    s.psqStartArb.now = s.now ∧ s.psqStartArb.arb = s.arb ∧ s.psqStartArb.psq.wt = s.psq.wt := by
  unfold State.psqStartArb
  split
  · obtain ⟨-, harb, -, -, -, hnow, -, -, hpsq⟩ := s.psqStart_kept .arb .D1
    exact ⟨hnow, harb, by rw [hpsq]⟩
  · exact ⟨rfl, rfl, rfl⟩

/-! ### The arbiter at the crystal-ready wait (rules R99, R103) -/

/-- A caller's own step (rules R86, R88, R97, R98) enters the source switch at S0 only; every other step that
reaches a label of the switch is a step of the switch. -/
theorem ArbStep.switchStep_or {s u : State} {p : Port} (h : ArbStep s p u) :
    s.switchStep p = .ok u ∨ (u.arb.seq ∈ switchLabels → u.arb.seq = .S0) := by
  cases h with
  | acq h =>
    unfold State.acqStep at h
    split at h
    case h_9 => exact .inl h
    case h_2 => right; split at h <;> cases h <;> simp [switchLabels]
    case h_1 => right; cases h; split <;> simp [switchLabels]
    case h_7 => right; cases h; split <;> simp [switchLabels]
    all_goals right; cases h; simp [switchLabels, State.callSwitch]
  | rel h =>
    unfold State.relStep at h
    split at h
    case h_7 => exact .inl h
    case h_1 => right; cases h; split <;> simp [switchLabels]
    case h_2 => right; cases h; split <;> simp [switchLabels]
    case h_3 hl =>
      right; cases h; unfold State.relHold
      split
      · split <;> simp [switchLabels, hl]
      · simp [switchLabels, hl]
    all_goals right; cases h; simp [switchLabels, State.callSwitch]
  | sws x h =>
    unfold State.swsStep at h
    split at h
    case h_3 => exact .inl h
    all_goals right; cases h; simp [switchLabels, State.callSwitch]
  | cfg b y h =>
    unfold State.cfgStep at h
    split at h
    case h_3 => cases h
    case h_1 => right; cases h; split <;> simp [switchLabels]
    case h_2 => right; cases h; simp [switchLabels]

/-- `goto arb_ret` (rule R99) leaves the switch for its caller. -/
theorem State.switchReturn_ne_X4 (s : State) : s.switchReturn.arb.seq ≠ .X4 := by
  cases hr : s.arb.ret <;> simp [State.switchReturn, hr]

/-- The tail of the crystal's branch (rules R101, R103) begins at E6 or P6. -/
theorem State.gotoTail_ne_X4 (s : State) : s.gotoTail.arb.seq ≠ .X4 := by
  by_cases ht : s.arb.tgt = 0#2 <;> simp [State.gotoTail, ht]

/-- X4 is reached from X3, which begins the wait, and from X4 itself. -/
theorem State.switchStep_enters_X4 {s u : State} {p : Port} (h : s.switchStep p = .ok u)
    (hu : u.arb.seq = .X4) : (s.arb.seq = .X3 ∧ u.arb.wt = s.now) ∨ (s.arb.seq = .X4 ∧ u = s.xtalWait) := by
  unfold State.switchStep at h
  split at h <;> rename_i hl <;> cases h
  case h_5.refl => exact .inl ⟨hl, by simp⟩
  case h_6.refl => exact .inr ⟨hl, rfl⟩
  all_goals exfalso; revert hu
  case h_1.refl =>
    split
    · exact s.switchReturn_ne_X4
    · simp
  case h_2.refl =>
    split
    · simp
    · split <;> simp
  case h_3.refl =>
    split
    · exact State.gotoTail_ne_X4 _
    · simp
  case h_7.refl =>
    split
    · exact State.gotoTail_ne_X4 _
    · simp
  case h_11.refl | h_16.refl | h_20.refl => exact State.switchReturn_ne_X4 _
  all_goals simp

/-- Every step of the arbiter that reaches X4 is X3, which begins the wait, or X4 itself. -/
theorem ArbStep.enters_X4 {s u : State} {p : Port} (h : ArbStep s p u) (hu : u.arb.seq = .X4) :
    (s.arb.seq = .X3 ∧ u.arb.wt = s.now) ∨ (s.arb.seq = .X4 ∧ u = s.xtalWait) := by
  obtain hs | hs := h.switchStep_or
  · exact State.switchStep_enters_X4 hs hu
  · have hS0 : u.arb.seq = .S0 := hs (hu ▸ by decide)
    simp [hu] at hS0

/-- At X4 every step of the arbiter is the crystal-ready wait's. -/
theorem ArbStep.at_X4 {s u : State} {p : Port} (h : ArbStep s p u) (hs : s.arb.seq = .X4) : u = s.xtalWait := by
  cases h with
  | acq h => simpa [State.acqStep, State.switchStep, hs, eq_comm] using h
  | rel h => simpa [State.relStep, State.switchStep, hs, eq_comm] using h
  | sws x h => simpa [State.swsStep, State.switchStep, hs, eq_comm] using h
  | cfg b y h => simp [State.cfgStep, hs] at h

/-- The step X4 does not touch when the wait began. -/
@[simp] theorem State.xtalWait_wt (s : State) : s.xtalWait.arb.wt = s.arb.wt := by
  unfold State.xtalWait
  split
  · rfl
  · split <;> rfl

/-- X4 goes on without the ready event only after the timeout. -/
theorem State.xtalWait_timeout {s : State} (hs : s.arb.seq = .X4) (hx : s.xtalWait.arb.seq = .X5)
    (hg : s.xtalWait.arb.got = false) : xtalTimeout ≤ s.now - s.arb.wt := by
  unfold State.xtalWait at hx hg
  cases hl : s.xtalRdyLatch with
  | true => simp [hl] at hg
  | false =>
    by_contra ht
    simp [hl, ht, hs] at hx

/-! ### What a move that is not TIME's does to the waits (rules R179, R180) -/

/-- From `s` to `u` no time passes, a wait that begins, begins now, X4 is entered with the wait begun now, and
it is left without the ready event only after the timeout. -/
structure WaitsKept (s u : State) : Prop where
  now : u.now = s.now
  arbWt : s.arb.wt ≤ s.now → u.arb.wt ≤ s.now
  psqWt : s.psq.wt ≤ s.now → u.psq.wt ≤ s.now
  enter : u.arb.seq = .X4 → (s.arb.seq = .X4 ∧ u.arb.wt = s.arb.wt) ∨ u.arb.wt = s.now
  leave : s.arb.seq = .X4 → u.arb.seq = .X5 → u.arb.got = false → xtalTimeout ≤ s.now - s.arb.wt

/-- A step that leaves time and the arbiter alone. -/
theorem waitsKept_of_arb_eq {s u : State} (hnow : u.now = s.now) (harb : u.arb = s.arb)
    (hpsq : u.psq.wt = s.psq.wt ∨ u.psq.wt = s.now) : WaitsKept s u where
  now := hnow
  arbWt h := harb ▸ h
  psqWt h := by omega
  enter h := .inl ⟨harb ▸ h, by rw [harb]⟩
  leave hs hu := by simp [harb, hs] at hu

/-- The start of an arbiter command: its first label is none of the switch. -/
theorem waitsKept_arbStart (s : State) (p : Port) {l : ArbLabel} (hl : l ∈ [ArbLabel.C0, .A0, .L0, .W0]) :
    WaitsKept s (s.arbStart p l) := by
  obtain ⟨hnow, hpsq, harb | harb⟩ := s.arbStart_kept p l
  · exact waitsKept_of_arb_eq hnow harb (.inl (by rw [hpsq]))
  · have hX : l ≠ .X4 ∧ l ≠ .X5 := by clear hnow hpsq harb; revert l; decide
    exact {
      now := hnow
      arbWt := fun h => by rw [harb]; exact h
      psqWt := fun h => by rw [hpsq]; exact h
      enter := fun h => absurd (by simpa [harb] using h) hX.1
      leave := fun _ h => absurd (by simpa [harb] using h) hX.2 }

/-- A step of the arbiter's listings. -/
theorem ArbStep.waitsKept {s u : State} {p : Port} (h : ArbStep s p u) : WaitsKept s u where
  now := h.kept.now
  arbWt hs := by have := h.kept.wt; omega
  psqWt hs := by rw [h.kept.psqWt]; exact hs
  enter hu := by
    obtain ⟨-, hwt⟩ | ⟨hs, rfl⟩ := h.enters_X4 hu
    · exact .inr hwt
    · exact .inl ⟨hs, s.xtalWait_wt⟩
  leave hs hu hg := by
    obtain rfl := h.at_X4 hs
    exact State.xtalWait_timeout hs hu hg

/-- The reset input: both waits are forgotten (log 1), the time is not (log 11). -/
theorem waitsKept_applyReset (s : State) : WaitsKept s s.applyReset where
  now := rfl
  arbWt _ := Nat.zero_le _
  psqWt _ := Nat.zero_le _
  enter h := by cases h
  leave _ h := by cases h

/-- Every step of a command. -/
theorem ExecStep.waitsKept {s u : State} (h : ExecStep s u) : WaitsKept s u := by
  cases h with
  | held => exact waitsKept_of_arb_eq rfl rfl (.inl rfl)
  | arbStart p hl => exact waitsKept_arbStart s p hl
  | arb h => exact h.waitsKept
  | psqStartPort p l =>
    obtain ⟨hnow, harb, hwt⟩ := s.psqStartPort_kept p l
    exact waitsKept_of_arb_eq hnow harb (.inl hwt)
  | psqStartArb =>
    obtain ⟨hnow, harb, hwt⟩ := s.psqStartArb_kept
    exact waitsKept_of_arb_eq hnow harb (.inl hwt)
  | powerDown h =>
    obtain ⟨-, harb, -, -, hnow, -, -, -, -, -, -, -, -, -, -, hwt⟩ := State.powerDownStep_kept h
    exact waitsKept_of_arb_eq hnow harb hwt
  | powerUp h =>
    obtain ⟨-, harb, -, -, hnow, -, -, -, -, -, -, -, -, -, hwt⟩ := State.powerUpStep_kept h
    exact waitsKept_of_arb_eq hnow harb hwt
  | fuEnd p q code => exact waitsKept_of_arb_eq (by simp) (by simp) (.inl (by simp))

/-- Counting the move changes none of it. -/
theorem WaitsKept.advance {s u : State} (h : WaitsKept s u) : WaitsKept s u.advance :=
  ⟨h.now, h.arbWt, h.psqWt, h.enter, h.leave⟩

/-- Every step of the machine is a passing of time or keeps the waits. -/
theorem step_time_or_waitsKept {s t : State} (h : step s = .next t) :
    (∃ d, s.move = .time d ∧ t = (s.passTime d).advance) ∨ ((∀ d, s.move ≠ .time d) ∧ WaitsKept s t) := by
  by_cases hm : ∃ d, s.move = .time d
  · obtain ⟨d, hd⟩ := hm
    exact .inl ⟨d, hd, by simpa [step, hd, eq_comm] using h⟩
  · refine .inr ⟨not_exists.mp hm, ?_⟩
    obtain rfl | ⟨a, -, rfl⟩ | ⟨-, rfl⟩ | ⟨d, hd, -⟩ | ⟨-, rfl⟩ | ⟨-, i, -, he⟩ | ⟨-, e, -, rfl⟩ := step_next h
    · exact ExecStep.held.waitsKept.advance
    · obtain ⟨-, harb, hpsq, -, -, -, -, hnow, -⟩ := s.hostAccess_kept a
      exact (waitsKept_of_arb_eq hnow harb (.inl (by rw [hpsq]))).advance
    · obtain ⟨-, harb, hpsq, -, -, -, hnow, -⟩ := s.xtalReady_kept
      exact (waitsKept_of_arb_eq hnow harb (.inl (by rw [hpsq]))).advance
    · exact absurd ⟨d, hd⟩ hm
    · exact (waitsKept_applyReset s).advance
    · obtain ⟨u, hu, rfl⟩ := exec_next he
      exact hu.waitsKept.advance
    · exact (waitsKept_of_arb_eq (by simp [State.rejectWord]) (by simp [State.rejectWord])
        (.inl (by simp [State.rejectWord]))).advance

/-! ### The time invariant (rules R5, R103, R179, R180) -/

/-- A move that is not `TIME`'s keeps the invariant. -/
theorem WaitsKept.timeInv {s u : State} (h : WaitsKept s u) (hs : TimeInv s) : TimeInv u := by
  obtain ⟨harb, hpsq, hx⟩ := hs
  refine ⟨h.now ▸ h.arbWt harb, h.now ▸ h.psqWt hpsq, fun hu => ?_⟩
  rw [h.now]
  obtain ⟨hX4, hwt⟩ | hwt := h.enter hu
  · rw [hwt]; exact hx hX4
  · rw [hwt, Nat.sub_self]; exact Nat.zero_le _

/-- Where the crystal-ready wait is within its bound, the passing of time leaves it there. -/
theorem State.passTime_bounded {s : State} (d : Nat) (hx : s.arb.seq = .X4) (hs : s.now - s.arb.wt ≤ xtalTimeout) :
    s.now + s.timeStep d - s.arb.wt ≤ xtalTimeout := by
  rw [State.timeStep_of_eq hx]
  omega

/-- The passing of time keeps the invariant. -/
theorem timeInv_passTime {s : State} (d : Nat) (hs : TimeInv s) : TimeInv (s.passTime d) := by
  obtain ⟨harb, hpsq, hx⟩ := hs
  exact ⟨Nat.le_add_right_of_le harb, Nat.le_add_right_of_le hpsq, fun h => State.passTime_bounded d h (hx h)⟩

/-- Settles O40, by what a step is: a move of `TIME`, or one that keeps the waits. -/
theorem timeRunsForwardAndTheCrystalWaitIsBounded : Obligations.TimeRunsForwardAndTheCrystalWaitIsBounded := by
  intro s t hs h
  obtain ⟨-, -, hbound⟩ := id hs
  obtain ⟨d, hd, rfl⟩ | ⟨hm, hk⟩ := step_time_or_waitsKept h
  · refine ⟨timeInv_passTime d hs, fun d' hd' => ?_, fun hne => absurd hd (hne d), fun hX4 => ⟨?_, fun hX5 => ?_⟩⟩
    · obtain rfl : d = d' := by simpa [hd] using hd'
      rfl
    · exact State.passTime_bounded d hX4 (hbound hX4)
    · simp [hX4] at hX5
  · refine ⟨hk.timeInv hs, fun d hd => absurd hd (hm d), fun _ => hk.now, fun hX4 => ⟨?_, fun hX5 hgot => ?_⟩⟩
    · rw [hk.now]; exact hbound hX4
    · exact le_antisymm (hbound hX4) (hk.leave hX4 hX5 hgot)

end Sys2Proof.Machine
end

section
/-! PROOFS. Family 10, state: the registers as the host sees them. Accesses reach a register by its offset alone
(`slaveReg_eq_some_iff`), which settles the writes other than to `CMD` (O7) and the reads (O8); the words read, field by
field (O9), at reset (O10); and the two commands that store the configuration of a port (O18). -/

namespace Sys2Proof.Machine

/-! ### Host accesses (rules R12, R26, R46) -/

/-- The number of a register of a port names it. -/
theorem portReg_eq_some {n : Nat} {r : PortReg} (h : portReg n = some r) : n = r.index := by
  unfold portReg at h
  split at h <;> cases h <;> rfl

/-- An access reaches a register exactly when it is a whole word at the register's offset. -/
theorem slaveReg_eq_some_iff {z o : Nat} {r : SlaveReg} : slaveReg z o = some r ↔ z = 4 ∧ o = r.offset := by
  refine ⟨fun h => ?_, fun ⟨hz, ho⟩ => by rw [hz, ho, slaveReg_offset]⟩
  unfold slaveReg at h
  split at h
  case isFalse => cases h
  case isTrue hword =>
    refine ⟨hword.1, ?_⟩
    split at h
    · obtain ⟨x, hx, rfl⟩ := Option.map_eq_some_iff.mp h
      have hindex := portReg_eq_some hx
      simp only [SlaveReg.offset]; omega
    split at h
    · obtain ⟨x, hx, rfl⟩ := Option.map_eq_some_iff.mp h
      have hindex := portReg_eq_some hx
      simp only [SlaveReg.offset]; omega
    repeat' split at h
    all_goals cases h
    all_goals assumption

/-- A host's move is its access. -/
theorem step_host {s : State} {a : HostAccess} (h : s.move = .host a) : step s = .next (s.hostAccess a).advance := by
  simp [step, h]

/-- A write that is no whole word at a writable register's offset changes nothing. -/
theorem State.slaveWrite_ignored {s : State} {z o : Nat} (v : Word)
    (h : z ≠ 4 ∨ o ∉ [0x00, 0x04, 0x08, 0x40, 0x44, 0x48]) : s.slaveWrite z o v = s := by
  have hreach : ∀ {p r}, r ∈ [PortReg.CMD, .ARG_RATE, .ARG_BCLK] → slaveReg z o ≠ some (.port p r) := by
    intro p r hr hreg
    obtain ⟨hz, ho⟩ := slaveReg_eq_some_iff.mp hreg
    refine h.elim (absurd hz) fun hnot => hnot ?_
    have hoffsets : ∀ r ∈ [PortReg.CMD, .ARG_RATE, .ARG_BCLK], ∀ q ∈ [Port.p0, .p1],
        (SlaveReg.port q r).offset ∈ [0x00, 0x04, 0x08, 0x40, 0x44, 0x48] := by decide
    exact ho ▸ hoffsets r hr p (by cases p <;> simp)
  unfold State.slaveWrite
  split
  case h_1 hreg => exact absurd hreg (hreach (by simp))
  case h_2 hreg => exact absurd hreg (hreach (by simp))
  case h_3 hreg => exact absurd hreg (hreach (by simp))
  case h_4 => rfl

/-- Settles O7: the two operand registers are reached by their offsets, and every other write is ignored. -/
theorem otherHostWrites : Obligations.OtherHostWrites := by
  refine fun s p v => ⟨fun h => ?_, fun h => ?_, fun z o h hne => ?_⟩
  · simp [step_host h, State.hostAccess, State.slaveWrite, slaveReg_offset]
  · simp [step_host h, State.hostAccess, State.slaveWrite, slaveReg_offset]
  · simp [step_host h, State.hostAccess, State.slaveWrite_ignored v hne]

/-- A read at a register's offset gives the register's word. -/
theorem State.slaveRead_offset (s : State) (r : SlaveReg) : s.slaveRead 4 r.offset = s.regWord r := by
  simp [State.slaveRead, slaveReg_offset]

/-- A read that reaches no register gives 0. -/
theorem State.slaveRead_none {s : State} {z o : Nat} (h : z ≠ 4 ∨ ∀ r : SlaveReg, o ≠ r.offset) :
    s.slaveRead z o = 0 := by
  unfold State.slaveRead
  split
  case h_2 => rfl
  case h_1 r hreg =>
    obtain ⟨hz, ho⟩ := slaveReg_eq_some_iff.mp hreg
    exact h.elim (absurd hz) fun hnot => absurd ho (hnot r)

/-- Settles O8: the word read is `slaveRead`'s. -/
theorem hostReadsReturnTheWord : Obligations.HostReadsReturnTheWord := by
  refine fun s z o h => ⟨s.slaveRead z o, step_host h, ?_, State.slaveRead_none⟩
  rintro r rfl rfl
  exact s.slaveRead_offset r

/-! ### The words of the registers (rules R12, R13, R21, R22, R26) -/

/-- The bit of `CLKSTAT` that shows whether the lock is held (rule R26). -/
theorem lockBits_getLsbD_zero (l : Lock) : (lockBits l).getLsbD 0 = true ↔ l ≠ .free := by
  rcases l with _ | _ | _ <;> decide

/-- The bit of `CLKSTAT` that shows which port holds it (rule R26). -/
theorem lockBits_getLsbD_one (l : Lock) : (lockBits l).getLsbD 1 = true ↔ l = .held .p1 := by
  rcases l with _ | _ | _ <;> decide

/-- A bit of the low part of an append. -/
theorem getLsbD_append_low {m n i : Nat} (x : BitVec m) (y : BitVec n) (h : i < n) :
    (x ++ y).getLsbD i = y.getLsbD i := by
  rw [BitVec.getLsbD_append, if_pos h]

/-- A bit of the high part of an append. -/
theorem getLsbD_append_high {m n i : Nat} (x : BitVec m) (y : BitVec n) (h : n ≤ i) :
    (x ++ y).getLsbD i = x.getLsbD (i - n) := by
  rw [BitVec.getLsbD_append, if_neg (Nat.not_lt.mpr h)]

/-- Settles O9: each word is an append of its fields, so a field is found by passing the fields above and below
it. -/
theorem readBackBitLayout : Obligations.ReadBackBitLayout := by
  refine ⟨fun q => ⟨⟨rfl, rfl, rfl, rfl, rfl⟩, ?_, ?_, ?_, ?_⟩, fun s => ⟨fun _ _ => rfl, ?_, ?_, ?_⟩⟩
  all_goals
    simp only [PortState.regWord, State.regWord, Status.word, PortState.ifcfgWord, PortState.resDivWord,
      FrameResult.word, State.clkstatWord, State.ctloutWord, State.scratchWord]
    and_intros
  all_goals
    simp (disch := decide) only [BitVec.extractLsb'_append_eq_of_le, BitVec.extractLsb'_append_eq_of_add_le,
      getLsbD_append_low, getLsbD_append_high, Nat.reduceSub, lockBits_getLsbD_zero, lockBits_getLsbD_one]
  all_goals simp [bit]

/-- Settles O10: the state after reset, evaluated. -/
theorem resetHoldsTheSpecsValues : Obligations.ResetHoldsTheSpecsValues := by
  refine ⟨fun p r => ?_, fun p => ?_, ?_⟩
  · cases p <;> cases r <;> rfl
  · cases p <;> rfl
  · and_intros <;> rfl

/-! ### The configuration of a port (rules R126, R127) -/

/-- A port rewritten and then ended by `done` on its format unit is rewritten once. -/
theorem State.setPort_finish_fu (s : State) (p : Port) (q : PortState) :
    (s.setPort p q).finish .fu p =
      (s.setPort p { q with status := q.status.ended, pend := .none }).log (.complete p 0) := by
  simp [State.finish, State.endCommand]

/-- Settles O18: both commands rewrite their own port and end by `done`. -/
theorem sfmtAndSclkStoreTheConfiguration : Obligations.SfmtAndSclkStoreTheConfiguration := by
  intro s p ffmt mstr hm
  have hp : s.execPort = p := State.execPort_fu hm
  constructor
  · show execSfmt ffmt mstr s = _
    simp only [execSfmt, hp, answer_ok, State.setPort_finish_fu]
    rfl
  · show execSclk s = _
    simp only [execSclk, hp, answer_ok, State.setPort_finish_fu]
    rfl

end Sys2Proof.Machine
end

section
/-! PROOFS. Family 10, state: outside reset the event history determines the control fields and the register store
(O14). `Follows s u` says so of one step; each operation the meanings are written over extends it, and each kind of
step is a composition of those operations. -/

namespace Sys2Proof.Machine

/-! ### Replaying a history -/

/-- Replaying an appended history is replaying its two parts. -/
theorem replayCtl_append (c : Ctl) (es fs : List Event) : replayCtl c (es ++ fs) = replayCtl (replayCtl c es) fs := by
  induction es generalizing c with
  | nil => rfl
  | cons e es ih => cases e <;> exact ih _

/-- The same of the register store. -/
theorem replayStore_append (m : Memory) (es fs : List Event) :
    replayStore m (es ++ fs) = replayStore (replayStore m es) fs := by
  induction es generalizing m with
  | nil => rfl
  | cons e es ih => cases e <;> exact ih _

/-- Only the bytes of control fields change in a replay. -/
theorem read_replayStore_of_ne (m : Memory) (es : List Event) {a : Nat} (h : ∀ f, a ≠ (rsMap f).addr.toNat) :
    Memory.read (replayStore m es) a = Memory.read m a := by
  induction es generalizing m with
  | nil => rfl
  | cons e es ih =>
    cases e with
    | rsUpdate f v => exact (ih _).trans (Memory.read_updateBits_other m _ _ (h f))
    | _ => exact ih _

/-- So a byte that a replay changes is a control field's, and under the premise of rule R44 not precious. -/
theorem not_precious_of_replayStore_ne (hp : NoPreciousField) {m : Memory} {es : List Event} {a : BitVec 24}
    (h : Memory.read (replayStore m es) a.toNat ≠ Memory.read m a.toNat) : precious a = false := by
  by_contra ha
  refine h (read_replayStore_of_ne m es fun f hf => ha ?_)
  rw [BitVec.eq_of_toNat_eq hf]
  exact hp f

/-! ### What a step appends -/

/-- From `s` to `u` the history grows, and what it grows by makes the control fields and the store of `u` from
those of `s`. -/
def Follows (s u : State) : Prop :=
  ∃ es, u.events = s.events ++ es ∧ u.ctl = replayCtl s.ctl es ∧ u.store = replayStore s.store es

/-- Nothing appended, nothing changed. -/
@[simp] theorem Follows.refl (s : State) : Follows s s := ⟨[], by simp, rfl, rfl⟩

/-- A change of neither history, control fields nor store is invisible. -/
theorem Follows.congr {s u v : State} (he : v.events = u.events) (hc : v.ctl = u.ctl) (hm : v.store = u.store) :
    Follows s v ↔ Follows s u := by
  simp only [Follows, he, hc, hm]

/-- So it may be added at the end. -/
theorem Follows.quiet {s u v : State} (h : Follows s u) (he : v.events = u.events) (hc : v.ctl = u.ctl)
    (hm : v.store = u.store) : Follows s v := (Follows.congr he hc hm).mpr h

/-- An event other than `RSUpdate` leaves control fields and store. -/
theorem Follows.note {s u v : State} (h : Follows s u) {e : Event} (hne : ∀ f x, e ≠ .rsUpdate f x)
    (he : v.events = u.events ++ [e]) (hc : v.ctl = u.ctl) (hm : v.store = u.store) : Follows s v := by
  obtain ⟨es, hes, hctl, hstore⟩ := h
  refine ⟨es ++ [e], by simp [he, hes], ?_, ?_⟩
  · rw [replayCtl_append, hc, hctl]
    cases e <;> first | rfl | exact absurd rfl (hne _ _)
  · rw [replayStore_append, hm, hstore]
    cases e <;> first | rfl | exact absurd rfl (hne _ _)

/-- `RS.update` (rule R43) is what its own event replays to. -/
@[simp] theorem Follows.rsUpdate {s u : State} (h : Follows s u) (f : CtlField) (v : Byte) :
    Follows s (u.rsUpdate f v) := by
  obtain ⟨es, hes, hctl, hstore⟩ := h
  refine ⟨es ++ [.rsUpdate f v], by simp [hes], ?_, ?_⟩
  · rw [replayCtl_append, ← hctl]; rfl
  · rw [replayStore_append, ← hstore]; rfl

@[simp] theorem follows_arbGoto {s u : State} (l : ArbLabel) : Follows s (u.arbGoto l) ↔ Follows s u :=
  Follows.congr rfl rfl rfl
@[simp] theorem follows_psqGoto {s u : State} (l : PsqLabel) : Follows s (u.psqGoto l) ↔ Follows s u :=
  Follows.congr rfl rfl rfl
@[simp] theorem follows_callSwitch {s u : State} (x : BitVec 2) (r : ReturnLabel) :
    Follows s (u.callSwitch x r) ↔ Follows s u := Follows.congr rfl rfl rfl
@[simp] theorem follows_switchReturn {s u : State} : Follows s u.switchReturn ↔ Follows s u :=
  Follows.congr rfl rfl rfl
@[simp] theorem follows_gotoTail {s u : State} : Follows s u.gotoTail ↔ Follows s u := Follows.congr rfl rfl rfl
@[simp] theorem follows_commitSource {s u : State} (c : ClkSrc) : Follows s (u.commitSource c) ↔ Follows s u :=
  Follows.congr rfl rfl rfl
@[simp] theorem follows_setPort {s u : State} (p : Port) (q : PortState) : Follows s (u.setPort p q) ↔ Follows s u :=
  Follows.congr (by simp) (by simp) (by simp)
@[simp] theorem Follows.programMux {s u : State} (h : Follows s u) (x : BitVec 2) (b : Bit) :
    Follows s (u.programMux x b) := (h.rsUpdate _ _).rsUpdate _ _
@[simp] theorem Follows.boardSelect {s u : State} (h : Follows s u) (k : Bit) : Follows s (u.boardSelect k) :=
  h.note (by simp) rfl rfl rfl
@[simp] theorem Follows.arbWait {s u : State} (h : Follows s u) (w : WaitName) : Follows s (u.arbWait w) :=
  h.note (by simp) rfl rfl rfl
@[simp] theorem Follows.psqWait {s u : State} (h : Follows s u) (w : WaitName) : Follows s (u.psqWait w) :=
  h.note (by simp) rfl rfl rfl
@[simp] theorem Follows.raiseError {s u : State} (h : Follows s u) (g : Engine) (p : Port) (e : CmdError) :
    Follows s (u.raiseError g p e) := h.note (by simp) (State.raiseError_events ..) (by simp) (by simp)
@[simp] theorem Follows.finish {s u : State} (h : Follows s u) (g : Engine) (p : Port) : Follows s (u.finish g p) :=
  h.note (by simp) (State.finish_events ..) (by simp) (by simp)

/-! ### Every step follows its history -/

/-- An access of the host: an issue reports itself, nothing else reports. -/
theorem follows_hostAccess (s : State) (a : HostAccess) : Follows s (s.hostAccess a) := by
  cases a with
  | read z o => exact Follows.refl s
  | write z o v =>
    simp only [State.hostAccess, State.slaveWrite]
    split
    · simp only [State.issue]
      split
      · simp
      · exact ((follows_setPort _ _).mpr (.refl s)).note (e := .issue _ v) (by simp) rfl rfl rfl
    all_goals simp

/-- The crystal-ready event. -/
theorem follows_xtalReady (s : State) : Follows s s.xtalReady := by
  unfold State.xtalReady
  split
  · exact (Follows.refl s).note (e := .xtalRdy) (by simp) rfl rfl rfl
  · simp

/-- A step of the source switch. -/
theorem State.switchStep_follows {s u : State} {p : Port} (h : s.switchStep p = .ok u) : Follows s u := by
  unfold State.switchStep at h
  split at h <;> cases h
  case h_4.refl => exact (((Follows.refl s).quiet rfl rfl rfl).rsUpdate .XTAL_PDN 0).quiet rfl rfl rfl
  case h_5.refl => exact ((Follows.refl s).rsUpdate .XTAL_RDY_IE 1).quiet rfl rfl rfl
  case h_6.refl =>
    unfold State.xtalWait
    split
    · exact (Follows.refl s).quiet rfl rfl rfl
    split
    · exact (Follows.refl s).quiet rfl rfl rfl
    · exact .refl s
  all_goals try split
  all_goals simp

/-- A step of the arbiter. -/
theorem ArbStep.follows {s u : State} {p : Port} (h : ArbStep s p u) : Follows s u := by
  cases h with
  | acq h =>
    unfold State.acqStep at h
    split at h
    case h_9 => exact State.switchStep_follows h
    case h_2 =>
      split at h <;> cases h
      · simp
      · exact (Follows.refl s).quiet rfl rfl rfl
    case h_7 =>
      cases h; split
      · simp
      · exact (Follows.refl s).quiet rfl rfl rfl
    all_goals cases h; simp
  | rel h =>
    unfold State.relStep at h
    split at h
    case h_7 => exact State.switchStep_follows h
    case h_1 => cases h; split <;> simp
    case h_2 =>
      cases h; split
      · apply Follows.finish; exact (Follows.refl s).quiet rfl rfl rfl
      · simp
    case h_3 =>
      cases h; unfold State.relHold
      repeat' split
      all_goals exact (Follows.refl s).quiet rfl rfl rfl
    case h_4 => cases h; exact (Follows.refl s).quiet rfl rfl rfl
    all_goals cases h; simp
  | sws x h =>
    unfold State.swsStep at h
    split at h
    case h_3 => exact State.switchStep_follows h
    all_goals cases h; simp
  | cfg b y h =>
    unfold State.cfgStep at h
    split at h
    case h_3 => cases h
    case h_1 => cases h; split <;> simp
    case h_2 => cases h; apply Follows.finish; exact (Follows.refl s).quiet rfl rfl rfl

/-- The end of a sequence. -/
theorem Follows.psqEnd {s u v : State} (h : Follows s u) (hv : u.psqEnd = .ok v) : Follows s v := by
  obtain ⟨p, -, rfl⟩ | ⟨-, rfl⟩ := State.psqEnd_next hv
  · apply Follows.finish; exact h.quiet rfl rfl rfl
  · exact h.quiet rfl rfl rfl

/-- A step of the power-down sequence. -/
theorem State.powerDownStep_follows {s u : State} (h : s.powerDownStep = .ok u) : Follows s u := by
  unfold State.powerDownStep at h
  split at h
  case h_6 => exact ((Follows.refl s).rsUpdate _ _).psqEnd h
  case h_7 => cases h
  all_goals cases h; simp

/-- A step of the power-up sequence. -/
theorem State.powerUpStep_follows {s u : State} (h : s.powerUpStep = .ok u) : Follows s u := by
  unfold State.powerUpStep at h
  split at h
  case h_5 => exact (((Follows.refl s).rsUpdate _ _).rsUpdate _ _).psqEnd h
  case h_6 => cases h
  all_goals cases h; simp

/-- A start reports nothing. -/
theorem follows_arbStart (s : State) (p : Port) (l : ArbLabel) : Follows s (s.arbStart p l) := by
  unfold State.arbStart
  split
  · exact Follows.quiet ((follows_setPort _ _).mpr (.refl s)) rfl rfl rfl
  · simp

/-- The start of a sequence reports nothing. -/
theorem follows_psqStart (s : State) (o : PsqOwner) (l : PsqLabel) : Follows s (s.psqStart o l) := by
  obtain ⟨-, -, hctl, -, -, -, hstore, hevents, -⟩ := s.psqStart_kept o l
  exact (Follows.refl s).quiet hevents hctl hstore

/-- Every step of a command follows its history. -/
theorem ExecStep.follows {s u : State} (h : ExecStep s u) : Follows s u := by
  cases h with
  | held => exact .refl s
  | arbStart p hl => exact follows_arbStart s p _
  | arb h => exact h.follows
  | psqStartPort p l => unfold State.psqStartPort; split <;> simp [follows_psqStart]
  | psqStartArb => unfold State.psqStartArb; split <;> simp [follows_psqStart]
  | powerDown h => exact State.powerDownStep_follows h
  | powerUp h => exact State.powerUpStep_follows h
  | fuEnd p q code =>
    exact Follows.note ((follows_setPort p q).mpr (.refl s)) (e := .complete p code) (by simp) rfl rfl rfl

/-- Every step of the machine but reset follows its history. -/
theorem step_follows {s t : State} (hm : s.move ≠ .rst) (h : step s = .next t) : Follows s t := by
  suffices hu : ∃ u, Follows s u ∧ t = u.advance by
    obtain ⟨u, hu, rfl⟩ := hu
    exact hu.quiet rfl rfl rfl
  obtain rfl | ⟨a, -, rfl⟩ | ⟨-, rfl⟩ | ⟨d, -, rfl⟩ | ⟨hrst, -⟩ | ⟨-, i, -, he⟩ | ⟨-, e, -, rfl⟩ := step_next h
  · exact ⟨s, .refl s, rfl⟩
  · exact ⟨_, follows_hostAccess s a, rfl⟩
  · exact ⟨_, follows_xtalReady s, rfl⟩
  · exact ⟨s.passTime d, (Follows.refl s).quiet rfl rfl rfl, rfl⟩
  · exact absurd hrst hm
  · obtain ⟨u, hu, rfl⟩ := exec_next he
    exact ⟨u, hu.follows, rfl⟩
  · exact ⟨_, (Follows.refl s).raiseError _ _ _, rfl⟩

/-- Settles O14: every step follows its history, and a replay changes bytes of control fields only. -/
theorem historyDeterminesControlAndStore : Obligations.HistoryDeterminesControlAndStore := by
  intro s t hp hm h
  obtain ⟨es, hevents, hctl, hstore⟩ := step_follows hm h
  exact ⟨es, hevents, hctl, hstore, fun a ha => not_precious_of_replayStore_ne hp (hstore ▸ ha)⟩

end Sys2Proof.Machine
end

section
/-! PROOFS. Family 10, state: what a step of an engine can be, said once. The own steps of the arbiter's listings
label by label (`CallerStep`), the source switch by where it goes (`SwitchOutcome`), the two sequences of the power
sequencer (`DownStep`, `UpStep`). From these: the outputs (O51) and the reference (O53). -/

namespace Sys2Proof.Machine

/-! ### The listings of the arbiter (rules R86, R88, R97, R98) -/

/-- One step of the listing of an arbiter command; the other commands have no listing there. -/
def arbListing (i : Instr) (s : State) (p : Port) : Except Fault State :=
  match i with
  | .cfg bias bypass => s.cfgStep bias bypass p
  | .acq => s.acqStep p
  | .rel => s.relStep p
  | .sws tgt => s.swsStep tgt p
  | _ => .error .strayArbLabel

/-- Every step of the arbiter is a step of a listing. -/
theorem ArbStep.listing {s u : State} {p : Port} (h : ArbStep s p u) : ∃ i, arbListing i s p = .ok u := by
  cases h with
  | acq h => exact ⟨.acq, h⟩
  | rel h => exact ⟨.rel, h⟩
  | sws x h => exact ⟨.sws x, h⟩
  | cfg b y h => exact ⟨.cfg b y, h⟩

/-- A step of a listing is a step of the arbiter. -/
theorem arbStep_of_listing {i : Instr} {s u : State} {p : Port} (h : arbListing i s p = .ok u) : ArbStep s p u := by
  cases i with
  | cfg b y => exact .cfg b y h
  | acq => exact .acq h
  | rel => exact .rel h
  | sws x => exact .sws x h
  | _ => cases h

/-- The steps a listing takes outside the source switch: `CallerStep s p i u` when a step of command `i` of port
`p` at its own label makes `u` of `s`. -/
inductive CallerStep (s : State) (p : Port) : Instr → State → Prop where
  | C0_inUse {b y} (hl : s.arb.seq = .C0) (hc : s.clk.reqCnt ≠ 0) :
      CallerStep s p (.cfg b y) (s.raiseError .arb p .cfgInUse)
  | C0 {b y} (hl : s.arb.seq = .C0) (hc : s.clk.reqCnt = 0) : CallerStep s p (.cfg b y) (s.arbGoto .C1)
  | C1 {b y} (hl : s.arb.seq = .C1) :
      CallerStep s p (.cfg b y) (({ s with clk := { s.clk with pllBypass := y, xtalBias := b } }).finish .arb p)
  | A0_held (hl : s.arb.seq = .A0) (hc : s.clk.reqCnt ≠ 0) : CallerStep s p .acq (s.arbGoto .A6)
  | A0 (hl : s.arb.seq = .A0) (hc : s.clk.reqCnt = 0) : CallerStep s p .acq (s.arbGoto .A1)
  | A1_none (hl : s.arb.seq = .A1) : CallerStep s p .acq (s.raiseError .arb p .noReference)
  | A1 (k : Bit) (hl : s.arb.seq = .A1) :
      CallerStep s p .acq (({ s with clk := { s.clk with refSel := k } }).arbGoto .A2)
  | A2 (hl : s.arb.seq = .A2) : CallerStep s p .acq ((s.boardSelect s.clk.refSel).arbGoto .A3)
  | A3 (hl : s.arb.seq = .A3) : CallerStep s p .acq ((s.arbWait .T_REFSEL).arbGoto .A4)
  | A4 (hl : s.arb.seq = .A4) : CallerStep s p .acq (s.callSwitch (if s.clk.pllBypass = 1 then 0 else 1) .A5)
  | A5 (hl : s.arb.seq = .A5) : CallerStep s p .acq (s.arbGoto .A6)
  | A6_full (hl : s.arb.seq = .A6) (hc : s.clk.reqCnt = cntMax) :
      CallerStep s p .acq (s.raiseError .arb p .countOverflow)
  | A6 (hl : s.arb.seq = .A6) (hc : s.clk.reqCnt ≠ cntMax) :
      CallerStep s p .acq (({ s with clk := { s.clk with reqCnt := s.clk.reqCnt + 1 } }).arbGoto .A7)
  | A7 (hl : s.arb.seq = .A7) : CallerStep s p .acq (s.finish .arb p)
  | L0_none (hl : s.arb.seq = .L0) (hc : s.clk.reqCnt = 0) :
      CallerStep s p .rel (s.raiseError .arb p .countUnderflow)
  | L0 (hl : s.arb.seq = .L0) (hc : s.clk.reqCnt ≠ 0) : CallerStep s p .rel (s.arbGoto .L1)
  | L1_many (hl : s.arb.seq = .L1) (hc : 1 < s.clk.reqCnt.toNat) :
      CallerStep s p .rel (({ s with clk := { s.clk with reqCnt := s.clk.reqCnt - 1 } }).finish .arb p)
  | L1 (hl : s.arb.seq = .L1) (hc : ¬ 1 < s.clk.reqCnt.toNat) : CallerStep s p .rel (s.arbGoto .L2)
  | L2_ask (hl : s.arb.seq = .L2) (hr : s.psq.reqArb = false) :
      CallerStep s p .rel { s with psq := { s.psq with reqArb := true } }
  | L2_hold (hl : s.arb.seq = .L2) (hr : s.psq.reqArb = true) (hd : s.psq.arbReleased = false) : CallerStep s p .rel s
  | L2 (hl : s.arb.seq = .L2) (hr : s.psq.reqArb = true) (hd : s.psq.arbReleased = true) :
      CallerStep s p .rel (({ s with psq := { s.psq with reqArb := false, arbReleased := false } }).arbGoto .L3)
  | L3 (hl : s.arb.seq = .L3) : CallerStep s p .rel (({ s with clk := { s.clk with reqCnt := 0 } }).arbGoto .L4)
  | L4 (hl : s.arb.seq = .L4) : CallerStep s p .rel (s.callSwitch 2 .L5)
  | L5 (hl : s.arb.seq = .L5) : CallerStep s p .rel (s.finish .arb p)
  | W0 {x} (hl : s.arb.seq = .W0) : CallerStep s p (.sws x) (s.callSwitch x .W1)
  | W1 {x} (hl : s.arb.seq = .W1) : CallerStep s p (.sws x) (s.finish .arb p)

/-- A step of `CFG`. -/
theorem State.cfgStep_cases {s u : State} {b : BitVec 2} {y : Bit} {p : Port} (h : s.cfgStep b y p = .ok u) :
    CallerStep s p (.cfg b y) u := by
  unfold State.cfgStep at h
  split at h <;> cases h
  case h_1.refl hl =>
    split
    · exact .C0_inUse hl ‹_›
    · exact .C0 hl (not_not.mp ‹_›)
  case h_2.refl hl => exact .C1 hl

/-- A step of `ACQ`. -/
theorem State.acqStep_cases {s u : State} {p : Port} (h : s.acqStep p = .ok u) :
    CallerStep s p .acq u ∨ s.switchStep p = .ok u := by
  unfold State.acqStep at h
  split at h
  case h_1 hl =>
    cases h; left; split
    · exact .A0_held hl ‹_›
    · exact .A0 hl (not_not.mp ‹_›)
  case h_2 hl =>
    left; split at h <;> cases h
    · exact .A1_none hl
    · exact .A1 _ hl
  case h_3 hl => cases h; exact .inl (.A2 hl)
  case h_4 hl => cases h; exact .inl (.A3 hl)
  case h_5 hl => cases h; exact .inl (.A4 hl)
  case h_6 hl => cases h; exact .inl (.A5 hl)
  case h_7 hl =>
    cases h; left; split
    · exact .A6_full hl ‹_›
    · exact .A6 hl ‹_›
  case h_8 hl => cases h; exact .inl (.A7 hl)
  case h_9 => exact .inr h

/-- A step of `REL`. -/
theorem State.relStep_cases {s u : State} {p : Port} (h : s.relStep p = .ok u) :
    CallerStep s p .rel u ∨ s.switchStep p = .ok u := by
  unfold State.relStep at h
  split at h
  case h_1 hl =>
    cases h; left; split
    · exact .L0_none hl ‹_›
    · exact .L0 hl ‹_›
  case h_2 hl =>
    cases h; left; split
    · exact .L1_many hl ‹_›
    · exact .L1 hl ‹_›
  case h_3 hl =>
    cases h; left; unfold State.relHold
    cases hr : s.psq.reqArb with
    | false => exact .L2_ask hl hr
    | true =>
      cases hd : s.psq.arbReleased with
      | false => exact .L2_hold hl hr hd
      | true => exact .L2 hl hr hd
  case h_4 hl => cases h; exact .inl (.L3 hl)
  case h_5 hl => cases h; exact .inl (.L4 hl)
  case h_6 hl => cases h; exact .inl (.L5 hl)
  case h_7 => exact .inr h

/-- A step of `SWS`. -/
theorem State.swsStep_cases {s u : State} {x : BitVec 2} {p : Port} (h : s.swsStep x p = .ok u) :
    CallerStep s p (.sws x) u ∨ s.switchStep p = .ok u := by
  unfold State.swsStep at h
  split at h
  case h_1 hl => cases h; exact .inl (.W0 hl)
  case h_2 hl => cases h; exact .inl (.W1 hl)
  case h_3 => exact .inr h

/-- Every step of a listing is one of its own or one of the source switch. -/
theorem arbListing_cases {i : Instr} {s u : State} {p : Port} (h : arbListing i s p = .ok u) :
    CallerStep s p i u ∨ s.switchStep p = .ok u := by
  cases i with
  | cfg b y => exact .inl (State.cfgStep_cases h)
  | acq => exact State.acqStep_cases h
  | rel => exact State.relStep_cases h
  | sws x => exact State.swsStep_cases h
  | _ => cases h

/-! ### The source switch (rules R99 to R104, R108, R111) -/

/-- The label a return label names (rule R99). -/
def ReturnLabel.label : ReturnLabel → ArbLabel
  | .A5 => .A5
  | .L5 => .L5
  | .W1 => .W1

/-- `goto arb_ret` (rule R99). -/
@[simp] theorem State.switchReturn_seq (s : State) : s.switchReturn.arb.seq = s.arb.ret.label := by
  cases hr : s.arb.ret <;> simp [State.switchReturn, hr, ReturnLabel.label]

/-- A caller's label is neither X4 nor X5. -/
theorem ReturnLabel.label_ne (r : ReturnLabel) : r.label ≠ .X4 ∧ r.label ≠ .X5 := by cases r <;> decide

/-- `goto` the tail changes no control field. -/
@[simp] theorem State.gotoTail_ctl (s : State) : s.gotoTail.ctl = s.ctl := rfl

/-- The tail of the crystal's branch (rules R101, R103) is one of two labels of the switch. -/
theorem State.gotoTail_seq (s : State) : s.gotoTail.arb.seq = .E6 ∨ s.gotoTail.arb.seq = .P6 := by
  unfold State.gotoTail
  split <;> simp

/-- The source the last label of a branch commits to, or the one S0 finds already there. -/
inductive SwitchedTo (s : State) : ClkSrc → Prop where
  | already (hl : s.arb.seq = .S0) (ht : s.arb.tgt = sourceCode s.clk.clkSrc) : SwitchedTo s s.clk.clkSrc
  | external (hl : s.arb.seq = .E9) : SwitchedTo s .external
  | pll (hl : s.arb.seq = .P10) : SwitchedTo s .pll
  | ring (hl : s.arb.seq = .O4) : SwitchedTo s .ringOscillator

/-- Where a step of the source switch goes: on within it, back to its caller, or to an error. -/
inductive SwitchOutcome (s u : State) : Prop where
  | within (hseq : u.arb.seq ∈ switchLabels) (hclk : u.clk = s.clk)
  | back (c : ClkSrc) (hc : SwitchedTo s c) (hseq : u.arb.seq = s.arb.ret.label)
      (hclk : u.clk = { s.clk with clkSrc := c })
  | failed (hs : s.arb.seq = .S1 ∧ s.arb.tgt = 3 ∨ s.arb.seq = .X5) (hseq : u.arb.seq = .idle)
      (hclk : u.clk = { s.clk with lock := .free })

/-- What the source switch leaves alone: the return label and target, the sequencer, the board selects. -/
theorem State.switchStep_shared {s u : State} {p : Port} (h : s.switchStep p = .ok u) :
    u.arb.ret = s.arb.ret ∧ u.arb.tgt = s.arb.tgt ∧ u.psq = s.psq ∧ u.sel0 = s.sel0 ∧ u.sel1 = s.sel1 := by
  unfold State.switchStep at h
  split at h <;> cases h
  case h_1.refl => split <;> simp [State.switchReturn]
  case h_2.refl => split <;> simp
  case h_3.refl => split <;> simp [State.gotoTail]
  case h_6.refl => unfold State.xtalWait; split <;> (try split) <;> simp
  case h_7.refl => split <;> simp [State.gotoTail]
  all_goals simp [State.programMux, State.commitSource, State.switchReturn]

/-- The source switch has a step only at its own labels. -/
theorem State.switchStep_label {s u : State} {p : Port} (h : s.switchStep p = .ok u) : s.arb.seq ∈ switchLabels := by
  unfold State.switchStep at h
  split at h <;> rename_i hl <;> cases h <;> (rw [hl]; decide)

/-- Every step of the source switch has one of the three outcomes. -/
theorem State.switchStep_outcome {s u : State} {p : Port} (h : s.switchStep p = .ok u) : SwitchOutcome s u := by
  have htail : ∀ v : State, v.clk = s.clk → SwitchOutcome s v.gotoTail := fun v hv =>
    .within (by obtain h | h := v.gotoTail_seq <;> rw [h] <;> decide) hv
  unfold State.switchStep at h
  split at h <;> rename_i hl <;> cases h
  case h_1.refl =>
    split
    · exact .back _ (.already hl ‹_›) (by simp) rfl
    · exact .within (by simp; decide) rfl
  case h_2.refl =>
    split
    · exact .failed (.inl ⟨hl, ‹_›⟩) (by simp) (by simp)
    · exact .within (by split <;> simp <;> decide) rfl
  case h_3.refl =>
    split
    · exact htail _ rfl
    · exact .within (by simp; decide) rfl
  case h_6.refl =>
    unfold State.xtalWait
    split
    · exact .within (by simp; decide) rfl
    split
    · exact .within (by simp; decide) rfl
    · exact .within (by rw [hl]; decide) rfl
  case h_7.refl =>
    split
    · exact htail _ rfl
    · exact .failed (.inr hl) (by simp) (by simp)
  case h_11.refl => exact .back _ (.external hl) (State.switchReturn_seq _) rfl
  case h_16.refl => exact .back _ (.pll hl) (State.switchReturn_seq _) rfl
  case h_20.refl => exact .back _ (.ring hl) (State.switchReturn_seq _) rfl
  all_goals exact .within (by simp; decide) (by simp [State.programMux])

/-! ### The sequences of the power sequencer (rules R151, R153, R156) -/

/-- The end of a sequence, by its owner: `done` for a port, the release of step L2 of `REL` for the arbiter. -/
inductive PsqEnded (s : State) : State → Prop where
  | port {p : Port} (ho : s.psq.owner = .port p) :
      PsqEnded s (({ s with psq := { s.psq with seq := .idle, owner := .none } }).finish .psq p)
  | arb (ho : s.psq.owner = .arb) :
      PsqEnded s { s with psq := { s.psq with seq := .idle, owner := .none, arbReleased := true } }

/-- The steps of the power-down sequence. -/
inductive DownStep (s : State) : State → Prop where
  | D1 (hl : s.psq.seq = .D1) : DownStep s ((s.rsUpdate .MUTE 1).psqGoto .D2)
  | D2 (hl : s.psq.seq = .D2) : DownStep s ((s.rsUpdate .PDN_DONE_INH 1).psqGoto .D3)
  | D3 (hl : s.psq.seq = .D3) : DownStep s ((s.rsUpdate .PDN_OUT 1).psqGoto .D4)
  | D4 (hl : s.psq.seq = .D4) : DownStep s ((s.psqWait .T_PDN_SETTLE).psqGoto .D5)
  | D5 (hl : s.psq.seq = .D5) : DownStep s ((s.rsUpdate .PDN_PATH 1).psqGoto .D6)
  | D6 {u} (hl : s.psq.seq = .D6) (hu : PsqEnded (s.rsUpdate .PDN_DONE_INH 0) u) : DownStep s u

/-- The steps of the power-up sequence. -/
inductive UpStep (s : State) : State → Prop where
  | U1 (hl : s.psq.seq = .U1) : UpStep s ((s.rsUpdate .ASP_3ST 0).psqGoto .U2)
  | U2 (hl : s.psq.seq = .U2) :
      UpStep s (((s.rsUpdate .SCRATCH_A Config.kA).rsUpdate .SCRATCH_B Config.kB).psqGoto .U3)
  | U3 (hl : s.psq.seq = .U3) : UpStep s (((s.rsUpdate .PDN_PATH 0).rsUpdate .PDN_OUT 0).psqGoto .U4)
  | U4 (hl : s.psq.seq = .U4) : UpStep s ((s.psqWait .T_DAC_STARTUP).psqGoto .U5)
  | U5 {u} (hl : s.psq.seq = .U5) (hu : PsqEnded ((s.rsUpdate .SCRATCH_A 0).rsUpdate .SCRATCH_B 0) u) : UpStep s u

/-- A sequence that ends, ends for its owner. -/
theorem State.psqEnd_cases {s u : State} (h : s.psqEnd = .ok u) : PsqEnded s u := by
  obtain ⟨p, ho, rfl⟩ | ⟨ho, rfl⟩ := State.psqEnd_next h
  · exact .port ho
  · exact .arb ho

/-- Every step of the power-down sequence is one of these. -/
theorem State.powerDownStep_cases {s u : State} (h : s.powerDownStep = .ok u) : DownStep s u := by
  unfold State.powerDownStep at h
  split at h <;> rename_i hl
  case h_1 => cases h; exact .D1 hl
  case h_2 => cases h; exact .D2 hl
  case h_3 => cases h; exact .D3 hl
  case h_4 => cases h; exact .D4 hl
  case h_5 => cases h; exact .D5 hl
  case h_6 => exact .D6 hl (State.psqEnd_cases h)
  case h_7 => cases h

/-- Every step of the power-up sequence is one of these. -/
theorem State.powerUpStep_cases {s u : State} (h : s.powerUpStep = .ok u) : UpStep s u := by
  unfold State.powerUpStep at h
  split at h <;> rename_i hl
  case h_1 => cases h; exact .U1 hl
  case h_2 => cases h; exact .U2 hl
  case h_3 => cases h; exact .U3 hl
  case h_4 => cases h; exact .U4 hl
  case h_5 => exact .U5 hl (State.psqEnd_cases h)
  case h_6 => cases h

/-- A sequence's steps leave clock state and arbiter alone. -/
theorem PsqEnded.clk_eq {s u : State} (h : PsqEnded s u) : u.clk = s.clk := by cases h <;> simp
theorem PsqEnded.arb_eq {s u : State} (h : PsqEnded s u) : u.arb = s.arb := by cases h <;> simp

theorem DownStep.clk_eq {s u : State} (h : DownStep s u) : u.clk = s.clk := by
  cases h
  case D6 hl hu => exact hu.clk_eq
  all_goals rfl

theorem DownStep.arb_eq {s u : State} (h : DownStep s u) : u.arb = s.arb := by
  cases h
  case D6 hl hu => exact hu.arb_eq
  all_goals rfl

theorem UpStep.clk_eq {s u : State} (h : UpStep s u) : u.clk = s.clk := by
  cases h
  case U5 hl hu => exact hu.clk_eq
  all_goals rfl

theorem UpStep.arb_eq {s u : State} (h : UpStep s u) : u.arb = s.arb := by
  cases h
  case U5 hl hu => exact hu.arb_eq
  all_goals rfl

/-! ### What a step is to the arbiter -/

/-- Clock state, arbiter, board selects and interrupt enable are as before: nothing of the arbiter moved. -/
structure ArbUntouched (s u : State) : Prop where
  clk : u.clk = s.clk
  arb : u.arb = s.arb
  sel0 : u.sel0 = s.sel0
  sel1 : u.sel1 = s.sel1
  armed : u.ctl.xtalRdyIe = s.ctl.xtalRdyIe

/-- A step of the machine as the arbiter sees it: another agent's, a start from idle, a step of a listing. -/
inductive ArbView (s t : State) : Prop where
  | untouched (h : ArbUntouched s t)
  | start (p : Port) (l : ArbLabel) (hl : l ∈ [ArbLabel.C0, .A0, .L0, .W0]) (hidle : s.arb.seq = .idle)
      (ht : t = (s.arbStart p l).advance)
  | step {p : Port} {i : Instr} {u : State} (h : arbListing i s p = .ok u) (ht : t = u.advance)

/-- A move of the arbiter, seen so. -/
theorem arbView_of_arbCommand {l : ArbLabel} {i : Instr} {s t : State} (hl : l ∈ [ArbLabel.C0, .A0, .L0, .W0])
    (h : arbCommand l (arbListing i s s.execPort) s = .next t) : ArbView s t := by
  obtain ⟨-, rfl⟩ | ⟨hidle, rfl⟩ | ⟨-, -, u, hu, rfl⟩ := arbCommand_next h
  · exact .untouched ⟨rfl, rfl, rfl, rfl, rfl⟩
  · exact .start _ l hl hidle rfl
  · exact .step hu rfl

/-- The start of a sequence leaves the arbiter's part alone. -/
theorem arbUntouched_psqStart (s : State) (o : PsqOwner) (l : PsqLabel) : ArbUntouched s (s.psqStart o l) := by
  obtain ⟨hclk, harb, hctl, hsel0, hsel1, -⟩ := s.psqStart_kept o l
  exact ⟨hclk, harb, hsel0, hsel1, by rw [hctl]⟩

/-- A move of the sequencer, seen so. -/
theorem arbView_of_psqCommand {b : State} {n : Except Fault State} {s t : State} (hb : ArbUntouched s b)
    (hn : ∀ u, n = .ok u → ArbUntouched s u) (h : psqCommand b n s = .next t) : ArbView s t := by
  obtain ⟨-, rfl⟩ | ⟨-, rfl⟩ | ⟨-, -, u, hu, rfl⟩ := psqCommand_next h
  · exact .untouched ⟨rfl, rfl, rfl, rfl, rfl⟩
  · exact .untouched ⟨hb.clk, hb.arb, hb.sel0, hb.sel1, hb.armed⟩
  · obtain ⟨hclk, harb, hsel0, hsel1, harmed⟩ := hn u hu
    exact .untouched ⟨hclk, harb, hsel0, hsel1, harmed⟩

/-- A step of either sequence leaves the arbiter's part alone. -/
theorem State.powerDownStep_untouched {s u : State} (h : s.powerDownStep = .ok u) : ArbUntouched s u := by
  obtain ⟨hclk, harb, hsel0, hsel1, -, -, harmed, -⟩ := State.powerDownStep_kept h
  exact ⟨hclk, harb, hsel0, hsel1, harmed⟩

theorem State.powerUpStep_untouched {s u : State} (h : s.powerUpStep = .ok u) : ArbUntouched s u := by
  obtain ⟨hclk, harb, hsel0, hsel1, -, -, harmed, -⟩ := State.powerUpStep_kept h
  exact ⟨hclk, harb, hsel0, hsel1, harmed⟩

/-- The start for a port leaves the arbiter's part alone, enabled or not; so does the start for `REL`. -/
theorem arbUntouched_psqStartPort (s : State) (p : Port) (l : PsqLabel) : ArbUntouched s (s.psqStartPort p l) := by
  unfold State.psqStartPort
  split
  · exact arbUntouched_psqStart s _ l
  · exact ⟨rfl, rfl, rfl, rfl, rfl⟩

theorem arbUntouched_psqStartArb (s : State) : ArbUntouched s s.psqStartArb := by
  unfold State.psqStartArb
  split
  · exact arbUntouched_psqStart s _ _
  · exact ⟨rfl, rfl, rfl, rfl, rfl⟩

/-- Every step of a command is one of the three to the arbiter. -/
theorem exec_arbView {i : Instr} {s t : State} (h : exec i s = .next t) : ArbView s t := by
  have hfu : instrEngine i = .fu → ArbView s t := fun hi => by
    obtain ⟨q, code, -, -, -, -, rfl⟩ := execFu_next hi h
    exact .untouched ⟨by simp, by simp, by simp, by simp, by simp⟩
  cases i with
  | cfg b y => exact arbView_of_arbCommand (i := .cfg b y) (by decide) h
  | acq => exact arbView_of_arbCommand (i := .acq) (by decide) h
  | sws x => exact arbView_of_arbCommand (i := .sws x) (by decide) h
  | pdn => exact arbView_of_psqCommand (arbUntouched_psqStartPort s _ _) (fun _ => State.powerDownStep_untouched) h
  | pup => exact arbView_of_psqCommand (arbUntouched_psqStartPort s _ _) (fun _ => State.powerUpStep_untouched) h
  | rel =>
    have h : execRel s = .next t := h
    cases hm : s.psqMoves with
    | true =>
      exact arbView_of_psqCommand (arbUntouched_psqStartArb s) (fun _ => State.powerDownStep_untouched)
        (execRel_psq hm ▸ h)
    | false => exact arbView_of_arbCommand (i := .rel) (by decide) (execRel_arb hm ▸ h)
  | _ => exact hfu rfl

/-- Every step of the machine but reset is one of the three to the arbiter. -/
theorem step_arbView {s t : State} (hm : s.move ≠ .rst) (h : step s = .next t) : ArbView s t := by
  obtain rfl | ⟨a, -, rfl⟩ | ⟨-, rfl⟩ | ⟨d, -, rfl⟩ | ⟨hrst, -⟩ | ⟨-, i, -, he⟩ | ⟨-, e, -, rfl⟩ := step_next h
  · exact .untouched ⟨rfl, rfl, rfl, rfl, rfl⟩
  · obtain ⟨hclk, harb, -, hctl, hsel0, hsel1, -⟩ := s.hostAccess_kept a
    exact .untouched ⟨hclk, harb, hsel0, hsel1, congrArg Ctl.xtalRdyIe hctl⟩
  · obtain ⟨hclk, harb, -, hctl, hsel0, hsel1, -⟩ := s.xtalReady_kept
    exact .untouched ⟨hclk, harb, hsel0, hsel1, congrArg Ctl.xtalRdyIe hctl⟩
  · exact .untouched ⟨rfl, rfl, rfl, rfl, rfl⟩
  · exact absurd hrst hm
  · exact exec_arbView he
  · exact .untouched ⟨by simp [State.rejectWord], by simp [State.rejectWord], by simp [State.rejectWord],
      by simp [State.rejectWord], by simp [State.rejectWord]⟩

/-- What the start of an arbiter command leaves alone of the block's outputs and of the reference. -/
theorem State.arbStart_outputs (s : State) (p : Port) (l : ArbLabel) :
    (s.arbStart p l).sel0 = s.sel0 ∧ (s.arbStart p l).sel1 = s.sel1 ∧ (s.arbStart p l).ctl = s.ctl ∧
      (s.arbStart p l).clk.refSel = s.clk.refSel := by
  unfold State.arbStart
  split <;> simp

/-! ### The outputs (rules R24, R92, R103, R175) -/

/-- The outputs depend on the selects, the interrupt enable and the arbiter's label only. -/
theorem OutputInv.congr {s u : State} (hs : OutputInv s) (hsel0 : u.sel0 = s.sel0) (hsel1 : u.sel1 = s.sel1)
    (harmed : u.ctl.xtalRdyIe = s.ctl.xtalRdyIe)
    (hseq : u.arb.seq = .X4 ∨ u.arb.seq = .X5 ↔ s.arb.seq = .X4 ∨ s.arb.seq = .X5) : OutputInv u := by
  obtain ⟨hsel, hie⟩ := hs
  exact ⟨by rw [hsel0, hsel1]; exact hsel, by rw [harmed, hseq]; exact hie⟩

/-- Away from X4 and X5 the interrupt is not armed, and a step to a label away from them keeps it so. -/
theorem OutputInv.unarmed {s u : State} (hs : OutputInv s) (hsel0 : u.sel0 = s.sel0) (hsel1 : u.sel1 = s.sel1)
    (harmed : u.ctl.xtalRdyIe = s.ctl.xtalRdyIe) (hl : s.arb.seq ≠ .X4 ∧ s.arb.seq ≠ .X5)
    (hu : u.arb.seq ≠ .X4 ∧ u.arb.seq ≠ .X5) : OutputInv u :=
  hs.congr hsel0 hsel1 harmed (by simp [hl, hu])

/-- A listing's own step: only A2 moves the board selects (rule R92), and it never asserts both. -/
theorem CallerStep.outputInv {s u : State} {p : Port} {i : Instr} (h : CallerStep s p i u) (hs : OutputInv s) :
    OutputInv u := by
  cases h
  case A2 hl =>
    obtain ⟨-, hie⟩ := hs
    refine ⟨?_, by simpa [hl] using hie⟩
    simp only [State.arbGoto_sel0, State.arbGoto_sel1, State.boardSelect_sel0, State.boardSelect_sel1, beq_iff_eq]
    rintro ⟨h0, h1⟩
    simp [h0] at h1
  all_goals exact hs.unarmed (by simp) (by simp) (by simp) (by simp [*]) (by simp [*])

/-- A step of the source switch: X3 arms the interrupt, X5 disarms it (rule R103). -/
theorem State.switchStep_outputInv {s u : State} {p : Port} (h : s.switchStep p = .ok u) (hs : OutputInv s) :
    OutputInv u := by
  have htail : ∀ v : State, v.gotoTail.arb.seq ≠ .X4 ∧ v.gotoTail.arb.seq ≠ .X5 := fun v => by
    obtain hv | hv := v.gotoTail_seq <;> simp [hv]
  have hback : ∀ v : State, v.switchReturn.arb.seq ≠ .X4 ∧ v.switchReturn.arb.seq ≠ .X5 := fun v => by
    simp [ReturnLabel.label_ne]
  unfold State.switchStep at h
  split at h <;> rename_i hl <;> cases h
  case h_5.refl => exact ⟨hs.1, by simp [Ctl.set]⟩
  case h_6.refl =>
    unfold State.xtalWait
    split
    · exact hs.congr rfl rfl rfl (by simp [hl])
    split
    · exact hs.congr rfl rfl rfl (by simp [hl])
    · exact hs
  case h_7.refl =>
    split
    · exact ⟨hs.1, by simp [htail, Ctl.set]⟩
    · exact ⟨by simpa using hs.1, by simp [Ctl.set]⟩
  case h_1.refl => split <;> exact hs.unarmed rfl rfl rfl (by simp [hl]) (by simp [ReturnLabel.label_ne])
  case h_2.refl =>
    split
    · exact hs.unarmed (by simp) (by simp) (by simp) (by simp [hl]) (by simp)
    · exact hs.unarmed rfl rfl rfl (by simp [hl]) (by split <;> simp)
  case h_3.refl => split <;> exact hs.unarmed rfl rfl rfl (by simp [hl]) (by simp [htail])
  case h_11.refl | h_16.refl | h_20.refl => exact hs.unarmed rfl rfl rfl (by simp [hl]) (hback _)
  all_goals exact hs.unarmed rfl rfl rfl (by simp [hl]) (by simp)

/-- Settles O51: the selects and the interrupt enable are the arbiter's alone. -/
theorem outputsAreKept : Obligations.OutputsAreKept := by
  intro s t hs h
  by_cases hm : s.move = .rst
  · obtain rfl : s.applyReset.advance = t := by simpa [step, hm] using h
    have hreset : OutputInv State.reset := ⟨by decide, by decide⟩
    exact hreset.congr rfl rfl rfl .rfl
  cases step_arbView hm h with
  | untouched hk => exact hs.congr hk.sel0 hk.sel1 hk.armed (by rw [hk.arb])
  | start p l hl hidle ht =>
    obtain ⟨hsel0, hsel1, hctl, -⟩ := s.arbStart_outputs p l
    subst ht
    refine hs.unarmed hsel0 hsel1 (congrArg Ctl.xtalRdyIe hctl) (by simp [hidle]) ?_
    obtain ⟨-, -, harb | harb⟩ := s.arbStart_kept p l
    · simp [harb, hidle]
    · have hne : ∀ l ∈ [ArbLabel.C0, .A0, .L0, .W0], l ≠ .X4 ∧ l ≠ .X5 := by decide
      simpa [harb] using hne l hl
  | step hu ht =>
    subst ht
    obtain hc | hc := arbListing_cases hu
    · exact (hc.outputInv hs).congr rfl rfl rfl .rfl
    · exact (State.switchStep_outputInv hc hs).congr rfl rfl rfl .rfl

/-! ### The reference (rules R16, R128, R198) -/

/-- A listing's own step: only A1 chooses a reference. -/
theorem CallerStep.refSel {s u : State} {p : Port} {i : Instr} (h : CallerStep s p i u) :
    u.clk.refSel = s.clk.refSel ∨ s.arb.seq = .A1 := by
  cases h
  case A1 k hl => exact .inr hl
  all_goals left; simp

/-- The source switch never chooses a reference. -/
theorem SwitchOutcome.refSel {s u : State} (h : SwitchOutcome s u) : u.clk.refSel = s.clk.refSel := by
  cases h with
  | within _ hclk => rw [hclk]
  | back c _ _ hclk => rw [hclk]
  | failed _ _ hclk => rw [hclk]

/-- Settles O53: the reference is chosen at A1 only, where the count is 0. -/
theorem referenceFixedWhileCounted : Obligations.ReferenceFixedWhileCounted := by
  intro s t hs hcount hm h
  cases step_arbView hm h with
  | untouched hk => rw [hk.clk]
  | start p l hl hidle ht =>
    obtain ⟨-, -, -, href⟩ := s.arbStart_outputs p l
    subst ht
    exact href
  | step hu ht =>
    subst ht
    obtain hc | hc := arbListing_cases hu
    · exact hc.refSel.resolve_right fun hl => hcount (hs.acqZero (by simp [hl]))
    · exact (State.switchStep_outcome hc).refSel

end Sys2Proof.Machine
end

section
/-! PROOFS. Family 10, state: from a well-sequenced state the machine never stops and stays well sequenced (O45).
First the labels: a listing has a step at each of its labels and stays inside them. Then `SeqStep`, everything a step
from a well-sequenced state can be, with whose command it is; the machine always has one (`SeqInv.step`), and each
keeps the invariant (`SeqStep.seqInv`). -/

namespace Sys2Proof.Machine

/-! ### Labels (rules R86, R88, R97 to R99) -/

/-- The first label of the listing of an arbiter command. -/
def firstLabel : Instr → ArbLabel
  | .cfg _ _ => .C0
  | .acq => .A0
  | .rel => .L0
  | .sws _ => .W0
  | _ => .idle

/-- The return label with which a command calls the source switch. -/
def callerReturn : Instr → Option ReturnLabel
  | .acq => some .A5
  | .rel => some .L5
  | .sws _ => some .W1
  | _ => none

/-- `exec` of an arbiter command when the arbiter moves. -/
theorem exec_arbCommand {i : Instr} {s : State} (hi : instrEngine i = .arb) (hm : s.arbMoves = true) :
    exec i s = arbCommand (firstLabel i) (arbListing i s s.execPort) s := by
  cases i <;> cases hi
  case rel => exact execRel_arb (State.psqMoves_of_arb hm)
  all_goals rfl

/-- A command with labels of the arbiter is one of the arbiter's. -/
theorem instrEngine_of_arbLabelOf {i : Instr} {a : ArbState} (h : arbLabelOf i a = true) : instrEngine i = .arb := by
  cases i <;> first | rfl | cases h

/-- A listing begins at one of its labels. -/
theorem arbLabelOf_firstLabel {i : Instr} {a : ArbState} (hi : instrEngine i = .arb) (ha : a.seq = firstLabel i) :
    arbLabelOf i a = true := by
  cases i <;> cases hi <;> simp [arbLabelOf, ha, firstLabel]

/-- No listing is at `IDLE`. -/
theorem ne_idle_of_arbLabelOf {i : Instr} {a : ArbState} (h : arbLabelOf i a = true) : a.seq ≠ .idle := by
  intro ha
  cases i <;> simp [arbLabelOf, ha, switchLabels] at h

/-- Inside the source switch the return label says whose listing it is. -/
theorem arbLabelOf_switch {i : Instr} {a : ArbState} (hs : a.seq ∈ switchLabels) :
    arbLabelOf i a = true ↔ some a.ret = callerReturn i := by
  have hown : ∀ l ∈ switchLabels, [ArbLabel.C0, .C1].contains l = false ∧
      [ArbLabel.A0, .A1, .A2, .A3, .A4, .A5, .A6, .A7].contains l = false ∧
      [ArbLabel.L0, .L1, .L2, .L3, .L4, .L5].contains l = false ∧ [ArbLabel.W0, .W1].contains l = false := by decide
  obtain ⟨hC, hA, hL, hW⟩ := hown _ hs
  have hs : switchLabels.contains a.seq = true := List.contains_iff_mem.mpr hs
  cases i <;> simp only [arbLabelOf, callerReturn, hC, hA, hL, hW, hs] <;> simp

/-- The label a switch returns to is its caller's. -/
theorem arbLabelOf_back {i : Instr} {a : ArbState} {r : ReturnLabel} (hi : some r = callerReturn i)
    (ha : a.seq = r.label) : arbLabelOf i a = true := by
  cases i <;> cases hi <;> simp [arbLabelOf, ha, ReturnLabel.label]

/-- The source switch has a step at each of its labels. -/
theorem State.switchStep_ok {s : State} (p : Port) (h : s.arb.seq ∈ switchLabels) : ∃ u, s.switchStep p = .ok u := by
  unfold State.switchStep
  split
  case h_21 => simp_all [switchLabels]
  all_goals exact ⟨_, rfl⟩

/-- A listing has a step at each of its labels. -/
theorem arbListing_ok {i : Instr} {s : State} (p : Port) (h : arbLabelOf i s.arb = true) :
    ∃ u, arbListing i s p = .ok u := by
  have hswitch : ∀ own : List ArbLabel, own.contains s.arb.seq = false → ∀ b : Bool,
      (own.contains s.arb.seq || switchLabels.contains s.arb.seq && b) = true → ∃ u, s.switchStep p = .ok u := by
    intro own hown b hb
    rw [hown, Bool.false_or, Bool.and_eq_true, List.contains_iff_mem] at hb
    exact State.switchStep_ok p hb.1
  cases i with
  | cfg b y =>
    simp only [arbListing, State.cfgStep]
    split
    case h_3 => simp_all [arbLabelOf]
    all_goals exact ⟨_, rfl⟩
  | acq =>
    simp only [arbListing, State.acqStep]
    split
    case h_2 => split <;> exact ⟨_, rfl⟩
    case h_9 => exact hswitch _ (by simp_all) _ h
    all_goals exact ⟨_, rfl⟩
  | rel =>
    simp only [arbListing, State.relStep]
    split
    case h_7 => exact hswitch _ (by simp_all) _ h
    all_goals exact ⟨_, rfl⟩
  | sws x =>
    simp only [arbListing, State.swsStep]
    split
    case h_3 => exact hswitch _ (by simp_all) _ h
    all_goals exact ⟨_, rfl⟩
  | _ => cases h

/-- A listing's own step ends the command or stays in the listing. -/
theorem CallerStep.label {s u : State} {p : Port} {i : Instr} (h : CallerStep s p i u) (hu : u.arb.seq ≠ .idle) :
    arbLabelOf i u.arb = true := by
  cases h
  case C0_inUse | C1 | A1_none | A6_full | A7 | L0_none | L1_many | L5 | W1 => simp at hu
  all_goals simp [arbLabelOf, State.callSwitch, switchLabels, *]

/-- A step of a listing ends the command or stays in the listing. -/
theorem arbListing_label {i : Instr} {s u : State} {p : Port} (hl : arbLabelOf i s.arb = true)
    (h : arbListing i s p = .ok u) (hu : u.arb.seq ≠ .idle) : arbLabelOf i u.arb = true := by
  obtain hc | hc := arbListing_cases h
  · exact hc.label hu
  have hi := (arbLabelOf_switch (State.switchStep_label hc)).mp hl
  obtain ⟨hret, -⟩ := State.switchStep_shared hc
  cases State.switchStep_outcome hc with
  | within hseq => exact (arbLabelOf_switch hseq).mpr (hret ▸ hi)
  | back c _ hseq => exact arbLabelOf_back hi hseq
  | failed _ hseq => exact absurd hseq hu

/-- A label of the power-down is the power-down's, one of the power-up the power-up's (rules R153, R156). -/
theorem psqLabelOf_iff {i : Instr} {l : PsqLabel} :
    psqLabelOf i l = true ↔ (i = .pdn ∧ l ∈ downLabels) ∨ (i = .pup ∧ l ∈ upLabels) := by
  cases i <;> simp [psqLabelOf]

/-- No sequence is at `IDLE`. -/
theorem ne_idle_of_psqLabelOf {i : Instr} {l : PsqLabel} (h : psqLabelOf i l = true) : l ≠ .idle := by
  rintro rfl
  simp [psqLabelOf_iff, downLabels, upLabels] at h

/-- A sequence that has an owner ends. -/
theorem State.psqEnd_ok {s : State} (ho : s.psq.owner ≠ .none) : ∃ u, s.psqEnd = .ok u := by
  unfold State.psqEnd
  dsimp only
  split
  case h_3 hn => exact absurd hn ho
  all_goals exact ⟨_, rfl⟩

/-- The power-down sequence has a step at each of its labels. -/
theorem State.powerDownStep_ok {s : State} (hl : s.psq.seq ∈ downLabels) (ho : s.psq.owner ≠ .none) :
    ∃ u, s.powerDownStep = .ok u := by
  unfold State.powerDownStep
  split
  case h_6 => exact State.psqEnd_ok (by simpa using ho)
  case h_7 => simp_all [downLabels]
  all_goals exact ⟨_, rfl⟩

/-- The power-up sequence has a step at each of its labels. -/
theorem State.powerUpStep_ok {s : State} (hl : s.psq.seq ∈ upLabels) (ho : s.psq.owner ≠ .none) :
    ∃ u, s.powerUpStep = .ok u := by
  unfold State.powerUpStep
  split
  case h_5 => exact State.psqEnd_ok (by simpa using ho)
  case h_6 => simp_all [upLabels]
  all_goals exact ⟨_, rfl⟩

/-! ### The latched command -/

/-- A port has a legal command latched that satisfies `f`. -/
theorem latchedSat_iff {q : PortState} {f : Instr → Bool} :
    latchedSat q f = true ↔ ∃ i, decode q.cmdLatch = .ok i ∧ f i = true := by
  unfold latchedSat
  cases decode q.cmdLatch <;> simp

/-- `pend` after an issue names the engine of the word (rule R71). -/
theorem issuePend_of_ok {w : Word} {i : Instr} (h : decode w = .ok i) : issuePend w = enginePend (instrEngine i) := by
  simp [issuePend, h]

/-- A word that waits for an engine other than a format unit is a command of that engine. -/
theorem decode_of_issuePend_arb {w : Word} (h : issuePend w = .arbWait) :
    ∃ i, decode w = .ok i ∧ instrEngine i = .arb := by
  unfold issuePend at h
  split at h
  case h_1 i hi => exact ⟨i, hi, by cases he : instrEngine i <;> simp_all [enginePend]⟩
  case h_2 => cases h

theorem decode_of_issuePend_psq {w : Word} (h : issuePend w = .psqWait) :
    decode w = .ok .pdn ∨ decode w = .ok .pup := by
  unfold issuePend at h
  split at h
  case h_1 i hi => cases i <;> first | exact .inl hi | exact .inr hi | cases h
  case h_2 => cases h

/-- A command issued to a format unit is one of its own. -/
theorem instrEngine_of_issuePend_fu {w : Word} {i : Instr} (hi : decode w = .ok i) (h : issuePend w = .fu) :
    instrEngine i = .fu := by
  rw [issuePend_of_ok hi] at h
  cases he : instrEngine i <;> simp_all [enginePend]

/-- An issue makes a command wait; it does not run it. -/
theorem issuePend_waits (w : Word) : issuePend w = .fu ∨ issuePend w = .arbWait ∨ issuePend w = .psqWait := by
  unfold issuePend
  split
  · rename_i i _
    cases instrEngine i <;> simp [enginePend]
  · exact .inl rfl

/-! ### Everything a step from a well-sequenced state can be -/

/-- The invariant of one port. -/
theorem SeqInv.port {s : State} (h : SeqInv s) (p : Port) : PortInv s p := by
  cases p
  · exact h.port0
  · exact h.port1

/-- What a step makes of a well-sequenced state, before the move is counted: nothing, a move of the environment, or
a step of a command of the port or engine that may take it. -/
inductive SeqStep (s : State) : State → Prop where
  | kept : SeqStep s s
  | host (a : HostAccess) (hm : s.move = .host a) : SeqStep s (s.hostAccess a)
  | xtal : SeqStep s s.xtalReady
  | time (d : Nat) : SeqStep s (s.passTime d)
  | reset : SeqStep s s.applyReset
  | fuEnd {p : Port} {q : PortState} {code : BitVec 4} (hp : (s.port p).pend = .fu) (hpend : q.pend = .none)
      (hbusy : q.status.busy = false) : SeqStep s ((s.setPort p q).log (.complete p code))
  | arbStart {p : Port} {i : Instr} (hlock : s.clk.lock = .free) (hp : (s.port p).pend = .arbWait)
      (hi : decode (s.port p).cmdLatch = .ok i) (he : instrEngine i = .arb) : SeqStep s (s.arbStart p (firstLabel i))
  | arb {p : Port} {i : Instr} {u : State} (hlock : s.clk.lock = .held p)
      (hi : decode (s.port p).cmdLatch = .ok i) (hl : arbLabelOf i s.arb = true)
      (h : arbListing i s p = .ok u) : SeqStep s u
  | psqStart {p : Port} {i : Instr} {l : PsqLabel} (ho : s.psq.owner = .none) (hp : (s.port p).pend = .psqWait)
      (hi : decode (s.port p).cmdLatch = .ok i) (hl : psqLabelOf i l = true) : SeqStep s (s.psqStart (.port p) l)
  | psqStartArb (ho : s.psq.owner = .none) (hr : s.psq.reqArb = true) (hd : s.psq.arbReleased = false) :
      SeqStep s (s.psqStart .arb .D1)
  | down {u : State} (h : DownStep s u) : SeqStep s u
  | up {p : Port} {u : State} (ho : s.psq.owner = .port p) (hi : decode (s.port p).cmdLatch = .ok .pup)
      (h : UpStep s u) : SeqStep s u

/-- The step a well-sequenced state has. -/
def HasSeqStep (s : State) : Prop := ∃ u, step s = .next u.advance ∧ SeqStep s u

/-- A move of a format unit: its command ends, or it has none. -/
theorem SeqInv.step_fu {s : State} (h : SeqInv s) {p : Port} (hm : s.move = .fu p) : HasSeqStep s := by
  by_cases hp : (s.port p).pend = .fu
  case neg => exact ⟨s, by simp [step, hm, State.dueFu, hp, runDue], .kept⟩
  have hport : s.execPort = p := State.execPort_fu hm
  have hstep : step s = runCommand p s := by simp [step, hm, State.dueFu, hp, runDue, hport]
  cases hd : decode (s.port p).cmdLatch with
  | error e =>
    refine ⟨s.rejectWord p e, by simp [hstep, runCommand, State.commandWord, hd], ?_⟩
    exact .fuEnd (q := { s.port p with status := _, pend := .none }) hp rfl (Status.failed_busy _ _)
  | ok i =>
    have he := instrEngine_of_issuePend_fu hd ((h.port p).fu hp)
    obtain ⟨t, ht⟩ : ∃ t, exec i s = .next t := by cases i <;> cases he <;> exact ⟨_, rfl⟩
    obtain ⟨q, code, hpend, hbusy, -, -, rfl⟩ := execFu_next he ht
    rw [hport] at ht
    refine ⟨_, ?_, .fuEnd (code := code) hp hpend hbusy⟩
    simp [hstep, runCommand, State.commandWord, hd, ht]

/-- A move of the arbiter: the start of a waiting command, a step of the one that holds the lock, or nothing. -/
theorem SeqInv.step_arb {s : State} (h : SeqInv s) {p : Port} (hm : s.move = .arb p) : HasSeqStep s := by
  have harb : s.arbMoves = true := State.arbMoves_iff.mpr ⟨p, hm⟩
  cases hlock : s.clk.lock with
  | held q =>
    have hport : s.execPort = q := State.execPort_arb harb hlock
    obtain ⟨i, hi, hl⟩ := latchedSat_iff.mp ((h.port q).arbLabel hlock)
    have hstep : step s = arbCommand (firstLabel i) (arbListing i s q) s := by
      simp [step, hm, State.dueArb, hlock, runDue, runCommand, State.commandWord, hport, hi,
        exec_arbCommand (instrEngine_of_arbLabelOf hl) harb]
    cases hr : s.arbReady with
    | false => exact ⟨s, by rw [hstep, arbCommand_held hr], .kept⟩
    | true =>
      obtain ⟨u, hu⟩ := arbListing_ok q hl
      refine ⟨u, ?_, .arb hlock hi hl hu⟩
      rw [hstep, arbCommand_step hr (ne_idle_of_arbLabelOf hl), hu, answer_ok]
  | free =>
    have hseq : s.arb.seq = .idle := h.lockFree.mp hlock
    by_cases hp : (s.port p).pend = .arbWait
    case neg => exact ⟨s, by simp [step, hm, State.dueArb, hlock, hseq, hp, runDue], .kept⟩
    have hport : s.execPort = p := State.execPort_arb_free hm hlock
    obtain ⟨i, hi, he⟩ := decode_of_issuePend_arb ((h.port p).arbWait hp)
    have hr : s.arbReady = true := State.arbReady_of_waits (by simp [hseq, arbWaitBefore])
    refine ⟨_, ?_, .arbStart hlock hp hi he⟩
    simp [step, hm, State.dueArb, hlock, hseq, hp, runDue, runCommand, State.commandWord, hport, hi,
      exec_arbCommand he harb, arbCommand, hr]

/-- A move of the sequencer inside a sequence: it waits or takes the step of its label. -/
theorem hasSeqStep_of_psqCommand {s b : State} {n : Except Fault State} (hstep : step s = psqCommand b n s)
    (hseq : s.psq.seq ≠ .idle) (hn : ∃ u, n = .ok u ∧ SeqStep s u) : HasSeqStep s := by
  cases hr : s.psqReady with
  | false => exact ⟨s, by rw [hstep, psqCommand_held hr], .kept⟩
  | true =>
    obtain ⟨u, hu, hs⟩ := hn
    exact ⟨u, by rw [hstep, psqCommand_step hr hseq, hu, answer_ok], hs⟩

/-- A move of the sequencer at rest starts a sequence. -/
theorem psqCommand_start {s b : State} {n : Except Fault State} (hseq : s.psq.seq = .idle) :
    psqCommand b n s = .next b.advance := by
  have hr : s.psqReady = true := State.psqReady_of_waits (by simp [hseq, psqWaitBefore])
  simp [psqCommand, hr, hseq]

/-- While the arbiter's request is up, the port that holds the lock has `REL` latched (rule R97). -/
theorem SeqInv.rel_of_request {s : State} (h : SeqInv s) (hr : s.psq.reqArb = true) :
    ∃ q, s.clk.lock = .held q ∧ decode (s.port q).cmdLatch = .ok .rel := by
  have hL2 := h.request hr
  cases hlock : s.clk.lock with
  | free => have := h.lockFree.mp hlock; simp [hL2] at this
  | held q =>
    obtain ⟨i, hi, hl⟩ := latchedSat_iff.mp ((h.port q).arbLabel hlock)
    refine ⟨q, rfl, ?_⟩
    cases i <;> simp [arbLabelOf, hL2, switchLabels] at hl
    exact hi

/-- A move of the sequencer: the start of a waiting command or of the power-down inside `REL`, a step of the
sequence it runs, or nothing. -/
theorem SeqInv.step_psq {s : State} (h : SeqInv s) {r : Requester} (hm : s.move = .psq r) : HasSeqStep s := by
  have hpsq : s.psqMoves = true := State.psqMoves_iff.mpr ⟨r, hm⟩
  have hrel := execRel_psq hpsq
  cases ho : s.psq.owner with
  | port q =>
    have hport : s.execPort = q := State.execPort_psq hpsq ho
    obtain ⟨i, hi, hl⟩ := latchedSat_iff.mp ((h.port q).psqLabel ho)
    have hstep : step s = exec i s := by
      simp [step, hm, State.duePsq, ho, runDue, runCommand, State.commandWord, hport, hi]
    have hne := ne_idle_of_psqLabelOf hl
    obtain ⟨rfl, hmem⟩ | ⟨rfl, hmem⟩ := psqLabelOf_iff.mp hl
    · obtain ⟨u, hu⟩ := State.powerDownStep_ok hmem (by simp [ho])
      exact hasSeqStep_of_psqCommand hstep hne ⟨u, hu, .down (State.powerDownStep_cases hu)⟩
    · obtain ⟨u, hu⟩ := State.powerUpStep_ok hmem (by simp [ho])
      exact hasSeqStep_of_psqCommand hstep hne ⟨u, hu, .up ho hi (State.powerUpStep_cases hu)⟩
  | arb =>
    obtain ⟨hreq, -, hl⟩ := h.arbOwner ho
    obtain ⟨q, hlock, hi⟩ := h.rel_of_request hreq
    have hport : s.execPort = q := by simp [State.execPort, State.execPort.lockHolder, hm, ho, hlock]
    have hstep : step s = execRel s := by
      simp [step, hm, State.duePsq, State.duePsqForArb, ho, hlock, runDue, runCommand, State.commandWord, hport, hi,
        exec]
    obtain ⟨u, hu⟩ := State.powerDownStep_ok hl (by simp [ho])
    have hne := ne_idle_of_psqLabelOf (psqLabelOf_iff.mpr (.inl ⟨rfl, hl⟩))
    exact hasSeqStep_of_psqCommand (hstep.trans hrel) hne ⟨u, hu, .down (State.powerDownStep_cases hu)⟩
  | none =>
    have hseq := h.noOwner.mp ho
    cases r with
    | port p =>
      by_cases hp : (s.port p).pend = .psqWait
      case neg => exact ⟨s, by simp [step, hm, State.duePsq, ho, hseq, hp, runDue], .kept⟩
      have hport : s.execPort = p := State.execPort_psq_free hm ho
      have hstart : ∀ l, s.psqStartPort p l = s.psqStart (.port p) l := fun l => if_pos hp
      have hstep : ∀ i, decode (s.port p).cmdLatch = .ok i → step s = exec i s := fun i hi => by
        simp [step, hm, State.duePsq, ho, hseq, hp, runDue, runCommand, State.commandWord, hport, hi]
      obtain hi | hi := decode_of_issuePend_psq ((h.port p).psqWait hp)
      · refine ⟨_, (hstep _ hi).trans ?_, .psqStart (l := .D1) ho hp hi rfl⟩
        exact (psqCommand_start hseq).trans (by rw [hport, hstart])
      · refine ⟨_, (hstep _ hi).trans ?_, .psqStart (l := .U1) ho hp hi rfl⟩
        exact (psqCommand_start hseq).trans (by rw [hport, hstart])
    | arb =>
      by_cases hreq : s.psq.reqArb = true ∧ s.psq.arbReleased = false
      case neg => exact ⟨s, by simp [step, hm, State.duePsq, ho, hseq, hreq, runDue], .kept⟩
      obtain ⟨hr, hd⟩ := id hreq
      obtain ⟨q, hlock, hi⟩ := h.rel_of_request hr
      have hport : s.execPort = q := by simp [State.execPort, State.execPort.lockHolder, hm, ho, hlock]
      have hstep : step s = execRel s := by
        simp [step, hm, State.duePsq, State.duePsqForArb, ho, hseq, hreq, hlock, runDue, runCommand, State.commandWord,
          hport, hi, exec]
      refine ⟨_, hstep.trans (hrel.trans ?_), .psqStartArb ho hr hd⟩
      rw [psqCommand_start hseq, State.psqStartArb, if_pos ⟨hr, by simp [hd]⟩]

/-- A well-sequenced state has a next state, reached by one of these steps: no fault, no refusal. -/
theorem SeqInv.step {s : State} (h : SeqInv s) : HasSeqStep s := by
  cases hm : s.move with
  | host a => exact ⟨_, step_host hm, .host a hm⟩
  | fu p => exact h.step_fu hm
  | arb p => exact h.step_arb hm
  | psq r => exact h.step_psq hm
  | xtal => exact ⟨s.xtalReady, by simp [Machine.step, hm], .xtal⟩
  | time d => exact ⟨s.passTime d, by simp [Machine.step, hm], .time d⟩
  | rst => exact ⟨s.applyReset, by simp [Machine.step, hm], .reset⟩

/-- Whatever step a well-sequenced state takes is one of these. -/
theorem SeqInv.step_cases {s t : State} (h : SeqInv s) (ht : Machine.step s = .next t) :
    ∃ u, t = u.advance ∧ SeqStep s u := by
  obtain ⟨u, hu, hs⟩ := h.step
  exact ⟨u, Host.Outcome.next.inj (ht.symm.trans hu), hs⟩

/-! ### The invariant of a port -/

/-- The invariant of a port reads of it only `BUSY`, `pend` and the latched word; of the engines, which of them it
holds and their labels. -/
theorem PortInv.of_same {s u : State} {p : Port} (h : PortInv s p)
    (hbusy : (u.port p).status.busy = (s.port p).status.busy) (hpend : (u.port p).pend = (s.port p).pend)
    (hlatch : (u.port p).cmdLatch = (s.port p).cmdLatch)
    (hlock : u.clk.lock = .held p ↔ s.clk.lock = .held p)
    (howner : u.psq.owner = .port p ↔ s.psq.owner = .port p)
    (harb : s.clk.lock = .held p → ∀ i, decode (s.port p).cmdLatch = .ok i → arbLabelOf i s.arb = true →
      arbLabelOf i u.arb = true)
    (hpsq : s.psq.owner = .port p → ∀ i, psqLabelOf i s.psq.seq = true → psqLabelOf i u.psq.seq = true) :
    PortInv u p where
  busy := by rw [hbusy, hpend]; exact h.busy
  fu := by rw [hpend, hlatch]; exact h.fu
  arbWait := by rw [hpend, hlatch]; exact h.arbWait
  psqWait := by rw [hpend, hlatch]; exact h.psqWait
  arbRun := by rw [hpend, hlock]; exact h.arbRun
  psqRun := by rw [hpend, howner]; exact h.psqRun
  arbLabel hu := by
    obtain ⟨i, hi, hl⟩ := latchedSat_iff.mp (h.arbLabel (hlock.mp hu))
    exact latchedSat_iff.mpr ⟨i, hlatch ▸ hi, harb (hlock.mp hu) i hi hl⟩
  psqLabel hu := by
    obtain ⟨i, hi, hl⟩ := latchedSat_iff.mp (h.psqLabel (howner.mp hu))
    exact latchedSat_iff.mpr ⟨i, hlatch ▸ hi, hpsq (howner.mp hu) i hl⟩

/-- A step that touches neither the port nor what it holds of the engines. -/
theorem PortInv.of_eq {s u : State} {p : Port} (h : PortInv s p) (hport : u.port p = s.port p)
    (hlock : u.clk.lock = .held p ↔ s.clk.lock = .held p) (howner : u.psq.owner = .port p ↔ s.psq.owner = .port p)
    (harb : s.clk.lock = .held p → u.arb = s.arb) (hpsq : s.psq.owner = .port p → u.psq.seq = s.psq.seq) :
    PortInv u p :=
  h.of_same (by rw [hport]) (by rw [hport]) (by rw [hport]) hlock howner (fun hl _ _ hi => harb hl ▸ hi)
    (fun ho _ hi => hpsq ho ▸ hi)

/-- A port without a command in flight. -/
theorem portInv_of_ended {u : State} {p : Port} (hbusy : (u.port p).status.busy = false)
    (hpend : (u.port p).pend = .none) (hlock : u.clk.lock ≠ .held p) (howner : u.psq.owner ≠ .port p) :
    PortInv u p := by
  constructor <;> simp [hbusy, hpend, hlock, howner]

/-- A port whose command waits for the engine of its word. -/
theorem portInv_of_waiting {u : State} {p : Port} (hbusy : (u.port p).status.busy = true)
    (hpend : (u.port p).pend = issuePend (u.port p).cmdLatch) (hlock : u.clk.lock ≠ .held p)
    (howner : u.psq.owner ≠ .port p) : PortInv u p := by
  obtain hw | hw | hw := issuePend_waits (u.port p).cmdLatch <;> rw [hw] at hpend <;>
    constructor <;> simp [hbusy, hpend, hlock, howner, hw]

/-- A port whose command runs on the arbiter. -/
theorem portInv_of_arbRun {u : State} {p : Port} {i : Instr} (hbusy : (u.port p).status.busy = true)
    (hpend : (u.port p).pend = .arbRun) (hlock : u.clk.lock = .held p) (howner : u.psq.owner ≠ .port p)
    (hi : decode (u.port p).cmdLatch = .ok i) (hl : arbLabelOf i u.arb = true) : PortInv u p := by
  have hlabel : latchedSat (u.port p) (fun i => arbLabelOf i u.arb) = true := latchedSat_iff.mpr ⟨i, hi, hl⟩
  constructor <;> simp [hbusy, hpend, hlock, howner, hlabel]

/-- A port whose command runs on the sequencer. -/
theorem portInv_of_psqRun {u : State} {p : Port} {i : Instr} (hbusy : (u.port p).status.busy = true)
    (hpend : (u.port p).pend = .psqRun) (hlock : u.clk.lock ≠ .held p) (howner : u.psq.owner = .port p)
    (hi : decode (u.port p).cmdLatch = .ok i) (hl : psqLabelOf i u.psq.seq = true) : PortInv u p := by
  have hlabel : latchedSat (u.port p) (fun i => psqLabelOf i u.psq.seq) = true := latchedSat_iff.mpr ⟨i, hi, hl⟩
  constructor <;> simp [hbusy, hpend, hlock, howner, hlabel]

/-- A port whose command is not on the arbiter does not hold the lock. -/
theorem PortInv.not_held {s : State} {p : Port} (h : PortInv s p) (hp : (s.port p).pend ≠ .arbRun) :
    s.clk.lock ≠ .held p := fun hl => hp (h.arbRun.mpr hl)

/-- A port whose command is not on the sequencer does not own it. -/
theorem PortInv.not_owner {s : State} {p : Port} (h : PortInv s p) (hp : (s.port p).pend ≠ .psqRun) :
    s.psq.owner ≠ .port p := fun ho => hp (h.psqRun.mpr ho)

/-- A port that holds the lock does not own the sequencer. -/
theorem PortInv.held_not_owner {s : State} {p : Port} (h : PortInv s p) (hl : s.clk.lock = .held p) :
    s.psq.owner ≠ .port p := h.not_owner (by simp [h.arbRun.mpr hl])

/-- A port that owns the sequencer does not hold the lock. -/
theorem PortInv.owner_not_held {s : State} {p : Port} (h : PortInv s p) (ho : s.psq.owner = .port p) :
    s.clk.lock ≠ .held p := h.not_held (by simp [h.psqRun.mpr ho])

/-- A port with a command in flight is busy. -/
theorem PortInv.busy_of_pend {s : State} {p : Port} (h : PortInv s p) (hp : (s.port p).pend ≠ .none) :
    (s.port p).status.busy = true := h.busy.mpr hp

/-! ### Each step keeps the sequencing invariant -/

/-- The invariant of both ports at once. -/
theorem seqInv_of_ports {u : State} (hport : ∀ p, PortInv u p) (hlock : u.clk.lock = .free ↔ u.arb.seq = .idle)
    (howner : u.psq.owner = .none ↔ u.psq.seq = .idle)
    (harb : u.psq.owner = .arb → u.psq.reqArb = true ∧ u.psq.arbReleased = false ∧ u.psq.seq ∈ downLabels)
    (hrequest : u.psq.reqArb = true → u.arb.seq = .L2) (hreleased : u.psq.arbReleased = true → u.psq.reqArb = true) :
    SeqInv u :=
  ⟨hport .p0, hport .p1, hlock, howner, harb, hrequest, hreleased⟩

/-- A step that leaves the lock and both engines alone keeps the invariant when it keeps the ports'. -/
theorem SeqInv.of_engines_eq {s u : State} (h : SeqInv s) (hport : ∀ p, PortInv u p)
    (hlock : u.clk.lock = s.clk.lock) (harb : u.arb = s.arb) (hpsq : u.psq = s.psq) : SeqInv u :=
  seqInv_of_ports hport (by rw [hlock, harb]; exact h.lockFree) (by rw [hpsq]; exact h.noOwner)
    (by rw [hpsq]; exact h.arbOwner) (by rw [hpsq, harb]; exact h.request) (by rw [hpsq]; exact h.released)

/-- The invariant reads the ports, the lock and the engines. -/
theorem SeqInv.congr {s u : State} (h : SeqInv s) (hport : ∀ p, u.port p = s.port p) (hlock : u.clk.lock = s.clk.lock)
    (harb : u.arb = s.arb) (hpsq : u.psq = s.psq) : SeqInv u :=
  h.of_engines_eq (fun p => (h.port p).of_eq (hport p) (by rw [hlock]) (by rw [hpsq]) (fun _ => harb)
    (fun _ => by rw [hpsq])) hlock harb hpsq

/-- The state after reset is well sequenced. -/
theorem seqInv_reset : SeqInv State.reset := by
  constructor <;> (try constructor) <;> decide

/-- A port rewritten, with the engines left alone: the invariant is kept when the port's is. -/
theorem SeqInv.setPort {s : State} (h : SeqInv s) {p : Port} {q : PortState} (hp : PortInv (s.setPort p q) p) :
    SeqInv (s.setPort p q) := by
  refine h.of_engines_eq (fun r => ?_) (by simp) (by simp) (by simp)
  obtain rfl | rfl := eq_or_eq_otherPort p r
  · exact hp
  · exact (h.port _).of_eq (by simp) (by simp) (by simp) (by simp) (by simp)

/-- A host access: an accepted issue makes an idle port's command wait; no other reaches what the invariant reads. -/
theorem SeqInv.hostAccess {s : State} (h : SeqInv s) (a : HostAccess) : SeqInv (s.hostAccess a) := by
  have hrewrite : ∀ (p : Port) (q : PortState), q.status.busy = (s.port p).status.busy →
      q.pend = (s.port p).pend → q.cmdLatch = (s.port p).cmdLatch → SeqInv (s.setPort p q) :=
    fun p q hb hp hc => h.setPort ((h.port p).of_same (by simpa using hb) (by simpa using hp) (by simpa using hc)
      (by simp) (by simp) (by simp) (by simp))
  cases a with
  | read z o => exact h.congr (fun p => by cases p <;> rfl) rfl rfl rfl
  | write z o v =>
    simp only [State.hostAccess, State.slaveWrite]
    split
    case h_1 p _ =>
      simp only [State.issue]
      split
      case isTrue hb => exact hrewrite p _ rfl rfl rfl
      case isFalse hb =>
        have hpend : (s.port p).pend = .none := by
          by_contra hne
          exact hb ((h.port p).busy_of_pend hne)
        have hp : PortInv (s.setPort p ((s.port p).issued v)) p := portInv_of_waiting (by simp [PortState.issued])
          (by simp [PortState.issued]) (by simpa using (h.port p).not_held (by simp [hpend]))
          (by simpa using (h.port p).not_owner (by simp [hpend]))
        exact (h.setPort hp).congr (fun r => by simp) rfl rfl rfl
    case h_2 p _ => exact hrewrite p _ rfl rfl rfl
    case h_3 p _ => exact hrewrite p _ rfl rfl rfl
    case h_4 => exact h

/-- The end of a command of a format unit. -/
theorem SeqInv.fuEnd {s : State} (h : SeqInv s) {p : Port} {q : PortState} (code : BitVec 4)
    (hp : (s.port p).pend = .fu) (hpend : q.pend = .none) (hbusy : q.status.busy = false) :
    SeqInv ((s.setPort p q).log (.complete p code)) := by
  have hended : PortInv (s.setPort p q) p := portInv_of_ended (by simpa using hbusy) (by simpa using hpend)
    (by simpa using (h.port p).not_held (by simp [hp])) (by simpa using (h.port p).not_owner (by simp [hp]))
  exact (h.setPort hended).congr (fun r => by simp) rfl rfl rfl

/-- A free lock is taken by the port whose command waited (rule R81). -/
theorem SeqInv.arbStart {s : State} (h : SeqInv s) {p : Port} {i : Instr} (hlock : s.clk.lock = .free)
    (hp : (s.port p).pend = .arbWait) (hi : decode (s.port p).cmdLatch = .ok i) (he : instrEngine i = .arb) :
    SeqInv (s.arbStart p (firstLabel i)) := by
  have hseq := h.lockFree.mp hlock
  have hl : arbLabelOf i { s.arb with seq := firstLabel i } = true := arbLabelOf_firstLabel he rfl
  have hreq : s.psq.reqArb ≠ true := fun hr => by simp [h.request hr] at hseq
  have hown : s.psq.owner ≠ .arb := fun ho => hreq (h.arbOwner ho).1
  obtain ⟨u, hu⟩ : ∃ u, u = s.arbStart p (firstLabel i) := ⟨_, rfl⟩
  have heq := hu.trans (State.arbStart_eq _ hlock hp)
  have hport : ∀ r, u.port r = (s.setPort p { s.port p with pend := .arbRun }).port r := fun r => by
    rw [heq]; cases r <;> rfl
  have hulock : u.clk.lock = .held p := by rw [heq]
  have huarb : u.arb = { s.arb with seq := firstLabel i } := by rw [heq]
  have hupsq : u.psq = s.psq := by simp [heq]
  rw [← hu]
  refine seqInv_of_ports (fun r => ?_) ?_ (by rw [hupsq]; exact h.noOwner) (by simp [hupsq, hown])
    (by simp [hupsq, hreq]) (by rw [hupsq]; exact h.released)
  · obtain rfl | rfl := eq_or_eq_otherPort p r
    · refine portInv_of_arbRun (i := i) ?_ (by simp [hport]) hulock ?_ (by simpa [hport] using hi) (huarb ▸ hl)
      · simpa [hport] using (h.port r).busy_of_pend (by simp [hp])
      · rw [hupsq]; exact (h.port r).not_owner (by simp [hp])
    · exact (h.port _).of_eq (by simp [hport]) (by simp [hulock, hlock, (otherPort_ne p).symm]) (by rw [hupsq])
        (by simp [hlock]) (by simp [hupsq])
  · simpa [hulock, huarb] using ne_idle_of_arbLabelOf hl

/-- Whether the arbiter's request stands, and whether it has been served, at each label (rules R54, R97). -/
structure RequestInv (s : State) : Prop where
  request : s.psq.reqArb = true → s.arb.seq = .L2
  released : s.psq.arbReleased = true → s.psq.reqArb = true
  arbOwner : s.psq.owner = .arb → s.psq.reqArb = true ∧ s.psq.arbReleased = false

/-- A step that leaves the sequencer alone, taken at another label than L2: no request stands. -/
theorem RequestInv.of_psq_eq {s u : State} (h : RequestInv s) (hpsq : u.psq = s.psq) (hl : s.arb.seq ≠ .L2) :
    RequestInv u := by
  have hreq : s.psq.reqArb ≠ true := fun hr => hl (h.request hr)
  exact ⟨by simp [hpsq, hreq], by rw [hpsq]; exact h.released, by rw [hpsq]; exact h.arbOwner⟩

/-- A step of a listing keeps it: the request goes up and down at L2 only, and down once served. -/
theorem RequestInv.arb {s u : State} (h : RequestInv s) {p : Port} {i : Instr} (hu : arbListing i s p = .ok u) :
    RequestInv u := by
  obtain hc | hc := arbListing_cases hu
  · cases hc
    case L2_ask hl hr =>
      have hrel : s.psq.arbReleased ≠ true := fun hd => by simp [h.released hd] at hr
      exact ⟨fun _ => hl, fun _ => rfl, fun ho => ⟨rfl, by simpa using hrel⟩⟩
    case L2_hold => exact h
    case L2 hl hr hd =>
      have hown : s.psq.owner ≠ .arb := fun ho => by obtain ⟨-, hno⟩ := h.arbOwner ho; simp [hd] at hno
      exact ⟨by simp, by simp, fun ho => absurd ho hown⟩
    all_goals exact h.of_psq_eq (by simp) (by simp [*])
  · obtain ⟨-, -, hpsq, -⟩ := State.switchStep_shared hc
    refine h.of_psq_eq hpsq fun hl => ?_
    have hmem := State.switchStep_label hc
    simp [hl, switchLabels] at hmem

/-- A step of the arbiter for the port that holds the lock (rules R53, R82, R97). -/
theorem SeqInv.arb {s u : State} (h : SeqInv s) {p : Port} {i : Instr} (hlock : s.clk.lock = .held p)
    (hi : decode (s.port p).cmdLatch = .ok i) (hl : arbLabelOf i s.arb = true) (hu : arbListing i s p = .ok u) :
    SeqInv u := by
  have hstep := arbStep_of_listing hu
  have hkept := hstep.kept
  have hown := (h.port p).held_not_owner hlock
  have hreq : RequestInv u := RequestInv.arb
    ⟨h.request, h.released, fun ho => by obtain ⟨hr, hd, -⟩ := h.arbOwner ho; exact ⟨hr, hd⟩⟩ hu
  have hother : u.clk.lock ≠ .held (otherPort p) → PortInv u (otherPort p) := fun hne =>
    have hs : s.clk.lock ≠ .held (otherPort p) := by simp [hlock, (otherPort_ne p).symm]
    (h.port _).of_eq hkept.other (by simp [hne, hs]) (by rw [hkept.owner]) (fun hh => absurd hh hs)
      (fun _ => hkept.psqSeq)
  have hpsq : u.psq.owner = .none ↔ u.psq.seq = .idle := by rw [hkept.owner, hkept.psqSeq]; exact h.noOwner
  have harb : u.psq.owner = .arb → u.psq.reqArb = true ∧ u.psq.arbReleased = false ∧ u.psq.seq ∈ downLabels := by
    intro ho
    obtain ⟨hr, hd⟩ := hreq.arbOwner ho
    obtain ⟨-, -, hdown⟩ := h.arbOwner (hkept.owner ▸ ho)
    exact ⟨hr, hd, hkept.psqSeq ▸ hdown⟩
  obtain ⟨hfree, hidle, ⟨st, hbusy, -, hport⟩, -⟩ | ⟨hsame, hport, hne⟩ := hstep.ends
  · refine seqInv_of_ports (fun r => ?_) (by simp [hfree, hidle]) hpsq harb hreq.request hreq.released
    obtain rfl | rfl := eq_or_eq_otherPort p r
    · exact portInv_of_ended (by simp [hport, hbusy]) (by simp [hport]) (by simp [hfree]) (hkept.owner ▸ hown)
    · exact hother (by simp [hfree])
  · have hheld := hsame.trans hlock
    refine seqInv_of_ports (fun r => ?_) (by simp [hheld, hne]) hpsq harb hreq.request hreq.released
    obtain rfl | rfl := eq_or_eq_otherPort p r
    · refine (h.port r).of_same (by rw [hport]) (by rw [hport]) (by rw [hport]) (by rw [hsame]) (by rw [hkept.owner])
        (fun _ j hj hlj => ?_) (fun ho => absurd ho hown)
      obtain rfl : i = j := Except.ok.inj (hi.symm.trans hj)
      exact arbListing_label hl hu hne
    · exact hother (by simp [hheld, (otherPort_ne p).symm])

/-- An idle sequencer is taken by the port whose command waited (rule R151). -/
theorem SeqInv.psqStart {s : State} (h : SeqInv s) {p : Port} {i : Instr} {l : PsqLabel} (ho : s.psq.owner = .none)
    (hp : (s.port p).pend = .psqWait) (hi : decode (s.port p).cmdLatch = .ok i) (hl : psqLabelOf i l = true) :
    SeqInv (s.psqStart (.port p) l) := by
  obtain ⟨hclk, harb, -, -, -, -, -, -, hpsq⟩ := s.psqStart_kept (.port p) l
  have hport : ∀ r, (s.psqStart (.port p) l).port r = (s.setPort p { s.port p with pend := .psqRun }).port r :=
    fun r => by cases r <;> rfl
  refine seqInv_of_ports (fun r => ?_) (by rw [hclk, harb]; exact h.lockFree)
    (by simpa [hpsq] using ne_idle_of_psqLabelOf hl) (by simp [hpsq]) (by rw [harb, hpsq]; exact h.request)
    (by rw [hpsq]; exact h.released)
  obtain rfl | rfl := eq_or_eq_otherPort p r
  · refine portInv_of_psqRun (i := i) ?_ (by simp [hport]) ?_ (by simp [hpsq]) (by simpa [hport] using hi)
      (by simpa [hpsq] using hl)
    · simpa [hport] using (h.port r).busy_of_pend (by simp [hp])
    · rw [hclk]; exact (h.port r).not_held (by simp [hp])
  · exact (h.port _).of_eq (by simp [hport]) (by rw [hclk]) (by simp [hpsq, ho, (otherPort_ne p).symm])
      (fun _ => harb) (by simp [ho])

/-- An idle sequencer is taken for the arbiter, whose request stands (rules R97, R151). -/
theorem SeqInv.psqStartArb {s : State} (h : SeqInv s) (ho : s.psq.owner = .none) (hr : s.psq.reqArb = true)
    (hd : s.psq.arbReleased = false) : SeqInv (s.psqStart .arb .D1) := by
  obtain ⟨hclk, harb, -, -, -, -, -, -, hpsq⟩ := s.psqStart_kept .arb .D1
  refine seqInv_of_ports (fun r => ?_) (by rw [hclk, harb]; exact h.lockFree) (by simp [hpsq])
    (by simp [hpsq, hr, hd, downLabels]) (by rw [harb, hpsq]; exact h.request) (by rw [hpsq]; exact h.released)
  exact (h.port r).of_eq (by cases r <;> rfl) (by rw [hclk]) (by simp [hpsq, ho]) (fun _ => harb) (by simp [ho])

/-- A step inside a sequence: ports, lock and arbiter are left alone, and the sequencer goes on to a label of
the same sequence. -/
theorem SeqInv.psqGoesOn {s u : State} (h : SeqInv s) (hport : ∀ r, u.port r = s.port r) (hclk : u.clk = s.clk)
    (harb : u.arb = s.arb) (howner : u.psq.owner = s.psq.owner) (hreq : u.psq.reqArb = s.psq.reqArb)
    (hrel : u.psq.arbReleased = s.psq.arbReleased) (hs : s.psq.seq ≠ .idle) (hu : u.psq.seq ≠ .idle)
    (hdown : s.psq.seq ∈ downLabels → u.psq.seq ∈ downLabels) (hup : s.psq.seq ∈ upLabels → u.psq.seq ∈ upLabels) :
    SeqInv u := by
  refine seqInv_of_ports (fun r => ?_) (by rw [hclk, harb]; exact h.lockFree) ?_ ?_
    (by rw [hreq, harb]; exact h.request) (by rw [hrel, hreq]; exact h.released)
  · refine (h.port r).of_same (by rw [hport]) (by rw [hport]) (by rw [hport]) (by rw [hclk]) (by rw [howner])
      (fun _ _ _ hl => harb ▸ hl) (fun _ i hl => ?_)
    have hcases := psqLabelOf_iff.mp hl
    exact psqLabelOf_iff.mpr (hcases.imp (fun ⟨hi, hm⟩ => ⟨hi, hdown hm⟩) (fun ⟨hi, hm⟩ => ⟨hi, hup hm⟩))
  · rw [howner, h.noOwner]; simp [hs, hu]
  · rw [howner, hreq, hrel]
    exact fun ho => by obtain ⟨hr, hd, hm⟩ := h.arbOwner ho; exact ⟨hr, hd, hdown hm⟩

/-- The end of a sequence (rule R151): the port's command is done, or the arbiter's request is served. -/
theorem SeqInv.psqEnded {s u : State} (h : SeqInv s) (hu : PsqEnded s u) : SeqInv u := by
  cases hu with
  | @port p ho =>
    have hheld := (h.port p).owner_not_held ho
    refine seqInv_of_ports (fun r => ?_) (by simpa using h.lockFree) (by simp) (by simp) (by simpa using h.request)
      (by simpa using h.released)
    obtain rfl | rfl := eq_or_eq_otherPort p r
    · exact portInv_of_ended (by simp) (by simp) (by simpa using hheld) (by simp)
    · exact (h.port _).of_eq (by simp; cases p <;> rfl) (by simp) (by simp [ho, (otherPort_ne p).symm]) (by simp)
        (by simp [ho, (otherPort_ne p).symm])
  | arb ho =>
    obtain ⟨hr, -, -⟩ := h.arbOwner ho
    refine seqInv_of_ports (fun r => ?_) h.lockFree (by simp) (by simp) h.request (fun _ => hr)
    exact (h.port r).of_eq (by cases r <;> rfl) .rfl (by simp [ho]) (fun _ => rfl) (by simp [ho])

/-- `RS.update` is not read by the invariant. -/
theorem SeqInv.rsUpdate {s : State} (h : SeqInv s) (f : CtlField) (v : Byte) : SeqInv (s.rsUpdate f v) :=
  h.congr (by simp) rfl rfl rfl

/-- A step of the power-down sequence. -/
theorem SeqInv.down {s u : State} (h : SeqInv s) (hu : DownStep s u) : SeqInv u := by
  cases hu
  case D6 hl hu => exact (h.rsUpdate _ _).psqEnded hu
  all_goals
    exact h.psqGoesOn (by simp) rfl rfl rfl rfl rfl (by simp [*]) (by simp) (by simp [downLabels])
      (by simp [upLabels, *])

/-- A step of the power-up sequence. -/
theorem SeqInv.up {s u : State} (h : SeqInv s) (hu : UpStep s u) : SeqInv u := by
  cases hu
  case U5 hl hu => exact ((h.rsUpdate _ _).rsUpdate _ _).psqEnded hu
  all_goals
    exact h.psqGoesOn (by simp) rfl rfl rfl rfl rfl (by simp [*]) (by simp) (by simp [downLabels, *])
      (by simp [upLabels])

/-- Every step from a well-sequenced state keeps the invariant. -/
theorem SeqStep.seqInv {s u : State} (hu : SeqStep s u) (h : SeqInv s) : SeqInv u := by
  cases hu with
  | kept => exact h
  | host a _ => exact h.hostAccess a
  | xtal =>
    obtain ⟨hclk, harb, hpsq, -, -, -, -, hp0, hp1, -⟩ := s.xtalReady_kept
    exact h.congr (fun p => by cases p <;> assumption) (by rw [hclk]) harb hpsq
  | time d => exact h.congr (by simp) rfl rfl rfl
  | reset => exact seqInv_reset.congr (fun p => by cases p <;> rfl) rfl rfl rfl
  | fuEnd hp hpend hbusy => exact h.fuEnd _ hp hpend hbusy
  | arbStart hlock hp hi he => exact h.arbStart hlock hp hi he
  | arb hlock hi hl hu => exact h.arb hlock hi hl hu
  | psqStart ho hp hi hl => exact h.psqStart ho hp hi hl
  | psqStartArb ho hr hd => exact h.psqStartArb ho hr hd
  | down hu => exact h.down hu
  | up _ _ hu => exact h.up hu

/-- Counting the move is not read by the invariant. -/
theorem SeqInv.advance {s : State} (h : SeqInv s) : SeqInv s.advance := h.congr (by simp) rfl rfl rfl

/-- Settles O45: a well-sequenced state has a step, and each keeps it well sequenced. -/
theorem sequencingIsKeptAndNothingStops : Obligations.SequencingIsKeptAndNothingStops := by
  intro s h
  obtain ⟨u, hu, hs⟩ := h.step
  exact ⟨u.advance, hu, (hs.seqInv h).advance⟩

end Sys2Proof.Machine
end

section
/-! PROOFS. Family 10, state: the clock half of the source's invariant (O49). `ClockInv` asks one thing of the count
and the source at each label; there is one way to meet it for each thing asked, and every step takes one of them. -/

namespace Sys2Proof.Machine

/-! ### No `SWS` in flight (rules R28, R202) -/

/-- A port has no `SWS` in flight: what waits for or runs on the arbiter is another command. -/
theorem noSws_iff {q : PortState} :
    noSws q = true ↔ (q.pend = .arbWait ∨ q.pend = .arbRun → ∀ x, decode q.cmdLatch ≠ .ok (.sws x)) := by
  unfold noSws latchedSat
  cases hd : decode q.cmdLatch with
  | error e => simp
  | ok i => cases i <;> simp

/-- Nothing on the arbiter, no `SWS`. -/
theorem noSws_of_pend {q : PortState} (hw : q.pend ≠ .arbWait) (hr : q.pend ≠ .arbRun) : noSws q = true :=
  noSws_iff.mpr fun h => absurd h (by simp [hw, hr])

/-- A change of neither `pend` nor the latched word. -/
theorem noSws_congr {q r : PortState} (hpend : r.pend = q.pend) (hlatch : r.cmdLatch = q.cmdLatch) :
    noSws r = noSws q := by
  simp [noSws, latchedSat, hpend, hlatch]

/-- No port has an `SWS` in flight. -/
def NoSwsInFlight (s : State) : Prop := ∀ r, noSws (s.port r) = true

/-- A step that leaves the ports alone. -/
theorem NoSwsInFlight.congr {s u : State} (h : NoSwsInFlight s) (hport : ∀ r, u.port r = s.port r) :
    NoSwsInFlight u := fun r => by rw [hport]; exact h r

/-- A port rewritten: the other is left alone. -/
theorem NoSwsInFlight.setPort {s : State} (h : NoSwsInFlight s) {p : Port} {q : PortState} (hq : noSws q = true) :
    NoSwsInFlight (s.setPort p q) := fun r => by
  rw [State.setPort_port]
  split
  · exact hq
  · exact h r

/-- A port rewritten, but for `pend` and the latched word. -/
theorem NoSwsInFlight.rewrite {s : State} (h : NoSwsInFlight s) {p : Port} {q : PortState}
    (hpend : q.pend = (s.port p).pend) (hlatch : q.cmdLatch = (s.port p).cmdLatch) : NoSwsInFlight (s.setPort p q) :=
  h.setPort ((noSws_congr hpend hlatch).trans (h p))

/-- A host access that issues no `SWS` brings none in flight. -/
theorem NoSwsInFlight.hostAccess {s : State} (h : NoSwsInFlight s) {a : HostAccess} (hm : s.move = .host a)
    (hno : s.issuesSws = false) : NoSwsInFlight (s.hostAccess a) := by
  cases a with
  | read z o => exact h.congr fun r => by cases r <;> rfl
  | write z o v =>
    simp only [State.hostAccess, State.slaveWrite]
    split
    case h_1 p hreg =>
      simp only [State.issue]
      split
      case isTrue => exact h.rewrite rfl rfl
      case isFalse hb =>
        have hissued : noSws ((s.port p).issued v) = true := by
          refine noSws_iff.mpr fun _ x hx => ?_
          have hx : decode v = .ok (.sws x) := hx
          simp [State.issuesSws, hm, hreg, hx, hb] at hno
        exact (h.setPort (p := p) hissued).congr fun r => by simp
    case h_2 p _ => exact h.rewrite rfl rfl
    case h_3 p _ => exact h.rewrite rfl rfl
    case h_4 => exact h

/-- A step of the arbiter brings no `SWS` in flight: it ends a command or leaves it as it is. -/
theorem NoSwsInFlight.arb {s u : State} (h : NoSwsInFlight s) {p : Port} (hu : ArbStep s p u) : NoSwsInFlight u := by
  intro r
  obtain rfl | rfl := eq_or_eq_otherPort p r
  · obtain ⟨-, -, ⟨st, -, -, hport⟩, -⟩ | ⟨-, hport, -⟩ := hu.ends
    · rw [hport]; exact noSws_of_pend (by simp) (by simp)
    · rw [hport]; exact h r
  · rw [hu.kept.other]; exact h _

/-- The end of a sequence brings none. -/
theorem NoSwsInFlight.psqEnded {s u : State} (h : NoSwsInFlight s) (hu : PsqEnded s u) : NoSwsInFlight u := by
  cases hu with
  | @port p ho =>
    intro r
    rw [State.finish_port]
    split
    · exact noSws_of_pend (by simp) (by simp)
    · exact h.congr (fun r => by cases r <;> rfl) r
  | arb ho => exact h.congr fun r => by cases r <;> rfl

/-- No step from a well-sequenced state but an issue brings an `SWS` in flight. -/
theorem SeqStep.noSwsInFlight {s u : State} (hu : SeqStep s u) (h : NoSwsInFlight s) (hno : s.issuesSws = false) :
    NoSwsInFlight u := by
  cases hu with
  | kept => exact h
  | host a hm => exact h.hostAccess hm hno
  | xtal =>
    obtain ⟨-, -, -, -, -, -, -, hp0, hp1, -⟩ := s.xtalReady_kept
    exact h.congr fun r => by cases r <;> assumption
  | time d => exact h.congr fun r => by simp
  | reset =>
    have hreset : NoSwsInFlight State.reset := by rintro (_ | _) <;> decide
    exact hreset.congr fun r => by cases r <;> rfl
  | @fuEnd p q code hp hpend hbusy =>
    have hq : noSws q = true := noSws_of_pend (by simp [hpend]) (by simp [hpend])
    exact (h.setPort (p := p) hq).congr fun r => by simp
  | @arbStart p i hlock hp hi he =>
    have hp' : noSws { s.port p with pend := .arbRun } = true := by
      have hx := noSws_iff.mp (h p) (.inl hp)
      exact noSws_iff.mpr fun _ => hx
    rw [State.arbStart_eq _ hlock hp]
    exact (h.setPort hp').congr fun r => by cases r <;> rfl
  | arb _ _ _ hu => exact h.arb (arbStep_of_listing hu)
  | @psqStart p i l ho hp hi hl =>
    have hp' : noSws { s.port p with pend := .psqRun } = true := noSws_of_pend (by simp) (by simp)
    exact (h.setPort hp').congr fun r => by cases r <;> rfl
  | psqStartArb => exact h.congr fun r => by cases r <;> rfl
  | down hu =>
    cases hu
    case D6 hl hu => exact (h.congr fun r => by simp).psqEnded hu
    all_goals exact h.congr fun r => by simp
  | up _ _ hu =>
    cases hu
    case U5 hl hu => exact (h.congr fun r => by simp).psqEnded hu
    all_goals exact h.congr fun r => by simp

/-! ### The ways to meet the clock invariant (rule R28) -/

section
variable {u : State} (hsws : NoSwsInFlight u)
include hsws

/-- Where the listings have changed neither: the count is 0 exactly when the source is the ring oscillator. -/
theorem clockInv_of_agree (hl : u.arb.seq ∈ [ArbLabel.idle, .C0, .C1, .A0, .A7, .L0, .L1, .L2, .L3])
    (h : u.clk.reqCnt = 0 ↔ u.clk.clkSrc = .ringOscillator) : ClockInv u := by
  have hne : ∀ l ∈ [ArbLabel.idle, .C0, .C1, .A0, .A7, .L0, .L1, .L2, .L3],
      l ∉ [ArbLabel.A1, .A2, .A3, .A4] ∧ l ∉ switchLabels ∧ l ∉ [ArbLabel.A5, .A6] ∧ l ≠ .L4 ∧ l ≠ .L5 := by decide
  obtain ⟨hA, hS, hB, hL4, hL5⟩ := hne _ hl
  exact ⟨hsws .p0, hsws .p1, fun _ => h, (absurd · hA), (absurd · hS), (absurd · hB),
    fun hr => hr.elim (absurd · hL4) fun hs => absurd hs.1 hS, (absurd · hL5)⟩

/-- Before the switch of `ACQ`: the ring oscillator. -/
theorem clockInv_of_before (hl : u.arb.seq ∈ [ArbLabel.A1, .A2, .A3, .A4]) (h : u.clk.clkSrc = .ringOscillator) :
    ClockInv u := by
  have hne : ∀ l ∈ [ArbLabel.A1, .A2, .A3, .A4],
      l ∉ [ArbLabel.idle, .C0, .C1, .A0, .A7, .L0, .L1, .L2, .L3] ∧ l ∉ switchLabels ∧ l ∉ [ArbLabel.A5, .A6] ∧
        l ≠ .L4 ∧ l ≠ .L5 := by decide
  obtain ⟨hG, hS, hB, hL4, hL5⟩ := hne _ hl
  exact ⟨hsws .p0, hsws .p1, (absurd · hG), fun _ => h, (absurd · hS), (absurd · hB),
    fun hr => hr.elim (absurd · hL4) fun hs => absurd hs.1 hS, (absurd · hL5)⟩

/-- After the switch of `ACQ`, before the one of `REL`: another source. -/
theorem clockInv_of_switched (hl : u.arb.seq ∈ [ArbLabel.A5, .A6, .L4]) (h : u.clk.clkSrc ≠ .ringOscillator) :
    ClockInv u := by
  have hne : ∀ l ∈ [ArbLabel.A5, .A6, .L4],
      l ∉ [ArbLabel.idle, .C0, .C1, .A0, .A7, .L0, .L1, .L2, .L3] ∧ l ∉ [ArbLabel.A1, .A2, .A3, .A4] ∧
        l ∉ switchLabels ∧ l ≠ .L5 := by decide
  obtain ⟨hG, hA, hS, hL5⟩ := hne _ hl
  exact ⟨hsws .p0, hsws .p1, (absurd · hG), (absurd · hA), (absurd · hS), fun _ => h, fun _ => h, (absurd · hL5)⟩

/-- After the switch of `REL`: the ring oscillator. -/
theorem clockInv_of_released (hl : u.arb.seq = .L5) (h : u.clk.clkSrc = .ringOscillator) : ClockInv u := by
  constructor <;> simp [hl, h, switchLabels, hsws .p0, hsws .p1, ← State.port_p0, ← State.port_p1]

/-- Inside the switch: the source its caller began with. -/
theorem clockInv_of_switch (hl : u.arb.seq ∈ switchLabels)
    (h : (u.arb.ret = .A5 ∧ u.clk.clkSrc = .ringOscillator) ∨ (u.arb.ret = .L5 ∧ u.clk.clkSrc ≠ .ringOscillator)) :
    ClockInv u := by
  have hne : ∀ l ∈ switchLabels,
      l ∉ [ArbLabel.idle, .C0, .C1, .A0, .A7, .L0, .L1, .L2, .L3] ∧ l ∉ [ArbLabel.A1, .A2, .A3, .A4] ∧
        l ∉ [ArbLabel.A5, .A6] ∧ l ≠ .L4 ∧ l ≠ .L5 := by decide
  obtain ⟨hG, hA, hB, hL4, hL5⟩ := hne _ hl
  refine ⟨hsws .p0, hsws .p1, (absurd · hG), (absurd · hA), fun _ hret => ?_, (absurd · hB), fun hr => ?_,
    (absurd · hL5)⟩
  · obtain ⟨-, hsrc⟩ | ⟨hL, -⟩ := h
    · exact hsrc
    · simp [hret] at hL
  · have hret : u.arb.ret = .L5 := hr.elim (absurd · hL4) And.right
    obtain ⟨hA, -⟩ | ⟨-, hsrc⟩ := h
    · simp [hret] at hA
    · exact hsrc

end

/-- A command other than `SWS` begins where count and source agree. -/
theorem firstLabel_mem {i : Instr} (hi : ∀ x, i ≠ .sws x) :
    firstLabel i ∈ [ArbLabel.idle, .C0, .C1, .A0, .A7, .L0, .L1, .L2, .L3] := by
  cases i
  case sws x => exact absurd rfl (hi x)
  all_goals simp [firstLabel]

/-- Count, source and arbiter left alone. -/
theorem ClockInv.congr {s u : State} (h : ClockInv s) (hsws : NoSwsInFlight u) (harb : u.arb = s.arb)
    (hclk : u.clk = s.clk) : ClockInv u := by
  obtain ⟨-, -, hagree, hbefore, hduring, hafter, hreleasing, hreleased⟩ := h
  refine ⟨hsws .p0, hsws .p1, ?_, ?_, ?_, ?_, ?_, ?_⟩ <;> rw [harb, hclk] <;> assumption

/-! ### Each step keeps the clock invariant -/

/-- A listing's own step. -/
theorem CallerStep.clockInv {s u : State} {p : Port} {i : Instr} (hu : CallerStep s p i u)
    (hsws : NoSwsInFlight u) (hi : ∀ x, i ≠ .sws x) (hcnt : CountInv s) (h : ClockInv s) :
    ClockInv u := by
  cases hu with
  | C0_inUse hl hc => exact clockInv_of_agree hsws (by simp) (by simpa using h.agree (by simp [hl]))
  | C0 hl hc => exact clockInv_of_agree hsws (by simp) (by simpa using h.agree (by simp [hl]))
  | C1 hl => exact clockInv_of_agree hsws (by simp) (by simpa using h.agree (by simp [hl]))
  | A0_held hl hc => exact clockInv_of_switched hsws (by simp) fun hr => hc ((h.agree (by simp [hl])).mpr hr)
  | A0 hl hc => exact clockInv_of_before hsws (by simp) ((h.agree (by simp [hl])).mp hc)
  | A1_none hl =>
    exact clockInv_of_agree hsws (by simp) (by simp [hcnt.acqZero (by simp [hl]), h.before (by simp [hl])])
  | A1 k hl => exact clockInv_of_before hsws (by simp) (h.before (by simp [hl]))
  | A2 hl => exact clockInv_of_before hsws (by simp) (h.before (by simp [hl]))
  | A3 hl => exact clockInv_of_before hsws (by simp) (h.before (by simp [hl]))
  | A4 hl => exact clockInv_of_switch hsws (by simp [switchLabels]) (.inl ⟨rfl, h.before (by simp [hl])⟩)
  | A5 hl => exact clockInv_of_switched hsws (by simp) (h.after (by simp [hl]))
  | A6_full hl hc => exact clockInv_of_agree hsws (by simp) (by simp [hc, h.after (by simp [hl]), cntMax])
  | A6 hl hc =>
    have hne : s.clk.reqCnt + 1 ≠ 0 := by
      intro h0
      exact hc (by simp only [cntMax]; bv_omega)
    exact clockInv_of_agree hsws (by simp) (iff_of_false hne (h.after (by simp [hl])))
  | A7 hl => exact clockInv_of_agree hsws (by simp) (by simpa using h.agree (by simp [hl]))
  | L0_none hl hc => exact clockInv_of_agree hsws (by simp) (by simpa using h.agree (by simp [hl]))
  | L0 hl hc => exact clockInv_of_agree hsws (by simp) (by simpa using h.agree (by simp [hl]))
  | L1_many hl hc =>
    have hne : s.clk.reqCnt - 1 ≠ 0 := by bv_omega
    have hsrc : s.clk.clkSrc ≠ .ringOscillator := fun hr => hcnt.relPos hl ((h.agree (by simp [hl])).mpr hr)
    exact clockInv_of_agree hsws (by simp) (by simpa [hsrc] using hne)
  | L1 hl hc => exact clockInv_of_agree hsws (by simp) (by simpa using h.agree (by simp [hl]))
  | L2_ask hl hr => exact clockInv_of_agree hsws (by simp [hl]) (h.agree (by simp [hl]))
  | L2_hold hl hr hd => exact h
  | L2 hl hr hd => exact clockInv_of_agree hsws (by simp) (h.agree (by simp [hl]))
  | L3 hl =>
    have hone := hcnt.relOne (by simp [hl])
    exact clockInv_of_switched hsws (by simp) fun hr => by simp [(h.agree (by simp [hl])).mpr hr] at hone
  | L4 hl => exact clockInv_of_switch hsws (by simp [switchLabels]) (.inr ⟨rfl, h.releasing (.inl hl)⟩)
  | L5 hl =>
    exact clockInv_of_agree hsws (by simp) (by simp [hcnt.relZero (by simp [hl]), h.released hl])
  | @W0 x hl => exact absurd rfl (hi x)
  | @W1 x hl => exact absurd rfl (hi x)

/-- The source a switch ends with is its target (rules R99, R100, R104, R108, R111). -/
theorem SwitchedTo.target {s : State} {c : ClkSrc} (hc : SwitchedTo s c) (ht : TargetInv s) :
    s.arb.tgt = sourceCode c := by
  cases hc with
  | already _ h => exact h
  | external hl => exact ht.external (by simp [hl])
  | pll hl => exact ht.pll (by simp [hl])
  | ring hl => exact ht.ring (by simp [hl])

/-- A step of the source switch for `ACQ`: another source at its return, and none changed at its error. -/
theorem SwitchOutcome.clockInv_acq {s u : State} (hu : SwitchOutcome s u) (hs : s.arb.seq ∈ switchLabels)
    (hret : s.arb.ret = .A5) (huret : u.arb.ret = .A5) (hsws : NoSwsInFlight u) (ht : TargetInv s)
    (hcnt : CountInv s) (h : ClockInv s) : ClockInv u := by
  have hring := h.during hs hret
  cases hu with
  | within hseq hclk => exact clockInv_of_switch hsws hseq (.inl ⟨huret, hclk ▸ hring⟩)
  | back c hc hseq hclk =>
    refine clockInv_of_switched hsws (by simp [hseq, hret, ReturnLabel.label]) ?_
    rw [hclk]
    rintro rfl
    have htgt := hc.target ht
    obtain h0 | h1 := ht.acq hs hret
    · simp [h0, sourceCode] at htgt
    · simp [h1, sourceCode] at htgt
  | failed _ hseq hclk =>
    exact clockInv_of_agree hsws (by simp [hseq]) (by simp [hclk, hring, hcnt.acqSwitch hs hret])

/-- A step of the source switch for `REL`: the ring oscillator at its return, and no error. -/
theorem SwitchOutcome.clockInv_rel {s u : State} (hu : SwitchOutcome s u) (hs : s.arb.seq ∈ switchLabels)
    (hret : s.arb.ret = .L5) (huret : u.arb.ret = .L5) (hsws : NoSwsInFlight u) (ht : TargetInv s)
    (h : ClockInv s) : ClockInv u := by
  have htgt := ht.rel hs hret
  cases hu with
  | within hseq hclk =>
    exact clockInv_of_switch hsws hseq (.inr ⟨huret, hclk ▸ h.releasing (.inr ⟨hs, hret⟩)⟩)
  | back c hc hseq hclk =>
    refine clockInv_of_released hsws (by simp [hseq, hret, ReturnLabel.label]) ?_
    rw [hclk]
    have hcode := (hc.target ht).symm.trans htgt
    cases c <;> first | rfl | simp [sourceCode] at hcode
  | failed herr hseq hclk =>
    obtain ⟨-, h3⟩ | hX5 := herr
    · simp [htgt] at h3
    · have := ht.crystal (by simp [hX5])
      simp [htgt] at this

/-- Every step from a well-sequenced state that issues no `SWS` keeps the clock invariant. -/
theorem SeqStep.clockInv {s u : State} (hu : SeqStep s u) (hseq : SeqInv s) (ht : TargetInv s) (hcnt : CountInv s)
    (h : ClockInv s) (hno : s.issuesSws = false) : ClockInv u := by
  have hsws₀ : NoSwsInFlight s := fun r => by
    cases r
    · exact h.noSws0
    · exact h.noSws1
  have hsws := hu.noSwsInFlight hsws₀ hno
  cases hu with
  | kept => exact h
  | host a _ =>
    obtain ⟨hclk, harb, -⟩ := s.hostAccess_kept a
    exact h.congr hsws harb hclk
  | xtal =>
    obtain ⟨hclk, harb, -⟩ := s.xtalReady_kept
    exact h.congr hsws harb hclk
  | time d => exact h.congr hsws rfl rfl
  | reset =>
    have hreset : ClockInv State.reset := by constructor <;> decide
    exact hreset.congr hsws rfl rfl
  | fuEnd => exact h.congr hsws (by simp) (by simp)
  | @arbStart p i hlock hp hi he =>
    have hagree := h.agree (by simp [hseq.lockFree.mp hlock])
    have hfirst := firstLabel_mem fun x hx => noSws_iff.mp (hsws₀ p) (.inl hp) x (hx ▸ hi)
    have heq := State.arbStart_eq (firstLabel i) hlock hp
    exact clockInv_of_agree hsws (by rw [heq]; exact hfirst) (by rw [heq]; exact hagree)
  | @arb p i _ hlock hi hl hu =>
    have hnot : ∀ x, i ≠ .sws x := fun x hx =>
      noSws_iff.mp (hsws₀ p) (.inr ((hseq.port p).arbRun.mpr hlock)) x (hx ▸ hi)
    obtain hc | hc := arbListing_cases hu
    · exact hc.clockInv hsws hnot hcnt h
    have hs := State.switchStep_label hc
    have hret := (arbLabelOf_switch hs).mp hl
    obtain ⟨huret, -⟩ := State.switchStep_shared hc
    cases i <;> simp only [callerReturn, Option.some.injEq, reduceCtorEq] at hret
    case acq => exact (State.switchStep_outcome hc).clockInv_acq hs hret (huret.trans hret) hsws ht hcnt h
    case rel => exact (State.switchStep_outcome hc).clockInv_rel hs hret (huret.trans hret) hsws ht h
    case sws x => exact absurd rfl (hnot x)
  | @psqStart p i l ho hp hi hl =>
    obtain ⟨hclk, harb, -⟩ := s.psqStart_kept (.port p) l
    exact h.congr hsws harb hclk
  | psqStartArb => exact h.congr hsws rfl rfl
  | down hu => exact h.congr hsws hu.arb_eq hu.clk_eq
  | up _ _ hu => exact h.congr hsws hu.arb_eq hu.clk_eq

/-- Settles O49: every step keeps the clock invariant, and with the lock free the arbiter is idle. -/
theorem countAndSourceAgree : Obligations.CountAndSourceAgree := by
  intro s t hseq ht hcnt h hno hstep
  obtain ⟨u, rfl, hu⟩ := hseq.step_cases hstep
  have hclock := hu.clockInv hseq ht hcnt h hno
  have hadvance : ClockInv u.advance :=
    hclock.congr (fun p => by cases p; exacts [hclock.noSws0, hclock.noSws1]) rfl rfl
  refine ⟨hadvance, fun hlock => hadvance.agree ?_⟩
  simp [(hu.seqInv hseq).lockFree.mp hlock]

end Sys2Proof.Machine
end

section
/-! PROOFS. Family 10, state: the power-down half of the source's invariant (O50). The power-down only takes the path
down and the arbiter never touches it; the one sequence that brings it up is a `PUP`'s, which the premise on the host
(rule R196) covers by a request. -/

namespace Sys2Proof.Machine

/-- The path is down when the output and the path itself are powered down (rule R158). -/
theorem State.pathDown_iff {s : State} : s.pathDown = true ↔ s.ctl.pdnOut = 1 ∧ s.ctl.pdnPath = 1 := by
  simp [State.pathDown]

/-- The invariant reads the count, the two control fields, the arbiter's label and the sequencer. -/
theorem PathInv.congr {s u : State} (h : PathInv s) (hcnt : u.clk.reqCnt = s.clk.reqCnt) (hctl : u.ctl = s.ctl)
    (harb : u.arb.seq = s.arb.seq) (hpsq : u.psq = s.psq) : PathInv u := by
  obtain ⟨hdown, hout, hpath, hheld, hzeroing⟩ := h
  constructor <;> simpa only [State.pathDown, hcnt, hctl, harb, hpsq] using ‹_›

/-! ### Steps of the arbiter (rule R97) -/

/-- What the invariant reads of the arbiter's part goes only these ways: the count becomes 0 at L3 only, L3 is
reached and the release taken back once the release stands. -/
structure ArbPathKept (s u : State) : Prop where
  count : u.clk.reqCnt = 0 → s.clk.reqCnt = 0 ∨ s.arb.seq = .L3
  zeroing : u.arb.seq = .L3 → s.psq.arbReleased = true
  released : u.psq.arbReleased = true → s.psq.arbReleased = true

/-- A listing's own step. -/
theorem CallerStep.pathKept {s u : State} {p : Port} {i : Instr} (h : CallerStep s p i u) : ArbPathKept s u := by
  cases h
  case A6 hl hc =>
    refine ⟨fun h0 => absurd ?_ hc, by simp, by simp⟩
    have h0 : s.clk.reqCnt + 1 = 0 := h0
    simp only [cntMax]; bv_omega
  case L1_many hl hc =>
    refine ⟨fun h0 => ?_, by simp, by simp⟩
    have h0 : s.clk.reqCnt - 1 = 0 := by simpa using h0
    bv_omega
  case L3 hl => exact ⟨fun _ => .inr hl, by simp, id⟩
  case L2 hl hr hd => exact ⟨.inl, fun _ => hd, by simp⟩
  all_goals exact ⟨fun h0 => .inl (by simpa using h0), by simp [*], by simp⟩

/-- A step of the source switch. -/
theorem State.switchStep_pathKept {s u : State} {p : Port} (h : s.switchStep p = .ok u) : ArbPathKept s u := by
  obtain ⟨-, -, hpsq, -⟩ := State.switchStep_shared h
  have hL3 : ArbLabel.L3 ∉ switchLabels := by decide
  have hreleased : u.psq.arbReleased = true → s.psq.arbReleased = true := by rw [hpsq]; exact id
  cases State.switchStep_outcome h with
  | within hseq hclk => exact ⟨by rw [hclk]; exact .inl, fun hu => absurd (hu ▸ hseq) hL3, hreleased⟩
  | back c _ hseq hclk =>
    refine ⟨by rw [hclk]; exact .inl, fun hu => ?_, hreleased⟩
    rw [hseq] at hu
    cases hr : s.arb.ret <;> simp [hr, ReturnLabel.label] at hu
  | failed _ hseq hclk => exact ⟨by rw [hclk]; exact .inl, by simp [hseq], hreleased⟩

/-- A step of the arbiter: the two control fields are not its own. -/
theorem PathInv.arb {s u : State} (h : PathInv s) {p : Port} {i : Instr} (hu : arbListing i s p = .ok u) :
    PathInv u := by
  have hkept := (arbStep_of_listing hu).kept
  obtain ⟨hcount, hzeroing, hreleased⟩ : ArbPathKept s u :=
    (arbListing_cases hu).elim CallerStep.pathKept State.switchStep_pathKept
  have hpath : u.pathDown = s.pathDown := by simp [State.pathDown, hkept.pdnOut, hkept.pdnPath]
  constructor
  case down => exact fun h0 => hpath ▸ (hcount h0).elim h.down h.zeroing
  case out => rw [hkept.owner, hkept.psqSeq, hkept.pdnOut]; exact h.out
  case path => rw [hkept.owner, hkept.psqSeq, hkept.pdnPath]; exact h.path
  case held => exact fun hr => hpath ▸ h.held (hreleased hr)
  case zeroing => exact fun hl => hpath ▸ h.held (hzeroing hl)

/-- The start of an arbiter command. -/
theorem PathInv.arbStart {s : State} (h : PathInv s) (p : Port) (i : Instr) :
    PathInv (s.arbStart p (firstLabel i)) := by
  obtain ⟨-, -, hctl, -⟩ := s.arbStart_outputs p (firstLabel i)
  obtain ⟨-, hpsq, harb⟩ := s.arbStart_kept p (firstLabel i)
  have hcnt : (s.arbStart p (firstLabel i)).clk.reqCnt = s.clk.reqCnt := by
    unfold State.arbStart
    split <;> simp
  have hfirst : firstLabel i ≠ .L3 := by cases i <;> simp [firstLabel]
  constructor <;> simp only [State.pathDown, hctl, hpsq, hcnt]
  case down => exact h.down
  case out => exact h.out
  case path => exact h.path
  case held => exact h.held
  case zeroing =>
    obtain harb | harb := harb <;> rw [harb]
    · exact h.zeroing
    · exact (absurd · hfirst)

/-! ### Steps of the sequencer (rules R153, R156) -/

/-- The start of a sequence is before every label that promises something. -/
theorem PathInv.psqStart {s : State} (h : PathInv s) (o : PsqOwner) {l : PsqLabel} (hl : o = .arb → l = .D1) :
    PathInv (s.psqStart o l) := by
  obtain ⟨hclk, harb, hctl, -, -, -, -, -, hpsq⟩ := s.psqStart_kept o l
  constructor <;> simp only [State.pathDown, hclk, harb, hctl, hpsq]
  case down => exact h.down
  case out => exact fun ho hs => by simp [hl ho] at hs
  case path => exact fun ho hs => by simp [hl ho] at hs
  case held => exact h.held
  case zeroing => exact h.zeroing

/-- A step that leaves the count and the arbiter alone and takes nothing up keeps the parts of the invariant that
do not name a label of the sequencer. -/
theorem PathInv.of_downward {s u : State} (h : PathInv s) (hclk : u.clk = s.clk) (harb : u.arb = s.arb)
    (hdownward : s.pathDown = true → u.pathDown = true)
    (hout : u.psq.owner = .arb → u.psq.seq ∈ [PsqLabel.D4, .D5, .D6] → u.ctl.pdnOut = 1)
    (hpath : u.psq.owner = .arb → u.psq.seq = .D6 → u.ctl.pdnPath = 1)
    (hheld : u.psq.arbReleased = true → s.psq.arbReleased = true ∨ u.pathDown = true) : PathInv u where
  down := by rw [hclk]; exact fun h0 => hdownward (h.down h0)
  out := hout
  path := hpath
  held hr := (hheld hr).elim (fun hs => hdownward (h.held hs)) id
  zeroing := by rw [harb]; exact fun hl => hdownward (h.zeroing hl)

/-- A step of the power-down sequence: D3 and D5 take the path down, D6 releases L2 with the path down. -/
theorem DownStep.pathInv {s u : State} (hu : DownStep s u) (h : PathInv s) : PathInv u := by
  cases hu with
  | D1 hl => exact h.of_downward rfl rfl id (by simp) (by simp) .inl
  | D2 hl => exact h.of_downward rfl rfl id (by simp) (by simp) .inl
  | D3 hl => exact h.of_downward rfl rfl (by simp [State.pathDown, Ctl.set]) (by simp [Ctl.set]) (by simp) .inl
  | D4 hl => exact h.of_downward rfl rfl id (fun ho _ => h.out ho (by simp [hl])) (by simp) .inl
  | D5 hl =>
    have hdownward : s.pathDown = true → ((s.rsUpdate .PDN_PATH 1).psqGoto .D6).pathDown = true := fun hd => by
      obtain ⟨hout, -⟩ := State.pathDown_iff.mp hd
      simp [State.pathDown_iff, Ctl.set, hout]
    exact h.of_downward rfl rfl hdownward (fun ho _ => h.out ho (by simp [hl])) (by simp [Ctl.set]) .inl
  | D6 hl hu =>
    cases hu with
    | port ho =>
      exact h.of_downward (by simp) (by simp) (by simp [State.pathDown, Ctl.set]) (by simp) (by simp)
        (by simpa using .inl)
    | arb ho =>
      have hpath := State.pathDown_iff.mpr ⟨h.out ho (by simp [hl]), h.path ho hl⟩
      exact h.of_downward rfl rfl id (by simp) (by simp) fun _ => .inr hpath

/-- A step of the power-up sequence of a port: with a request held and none being released to 0, nothing of the
invariant is claimed of the path. -/
theorem UpStep.pathInv {s u : State} (hu : UpStep s u) {p : Port} (ho : s.psq.owner = .port p)
    (hcnt : s.clk.reqCnt ≠ 0) (hl : s.arb.seq ≠ .L3) (hr : s.psq.arbReleased = false) : PathInv u := by
  have hother : u.psq.owner ≠ .arb ∧ u.psq.arbReleased = false := by
    cases hu
    case U5 hlab hu =>
      cases hu with
      | port => simp [hr]
      | arb harb => simp [ho] at harb
    all_goals simp [ho, hr]
  obtain ⟨howner, hrel⟩ := hother
  exact ⟨fun h0 => absurd (hu.clk_eq ▸ h0) hcnt, (absurd · howner), (absurd · howner), by simp [hrel],
    fun hz => absurd (hu.arb_eq ▸ hz) hl⟩

/-- Every step from a well-sequenced state in which the host has kept the ordering of rule R196 keeps the path
invariant. -/
theorem SeqStep.pathInv {s u : State} (hu : SeqStep s u) (hseq : SeqInv s) (h : PathInv s) (hcov : s.pupCovered) :
    PathInv u := by
  cases hu with
  | kept => exact h
  | host a _ =>
    obtain ⟨hclk, harb, hpsq, hctl, -⟩ := s.hostAccess_kept a
    exact h.congr (by rw [hclk]) hctl (by rw [harb]) hpsq
  | xtal =>
    obtain ⟨hclk, harb, hpsq, hctl, -⟩ := s.xtalReady_kept
    exact h.congr (by rw [hclk]) hctl (by rw [harb]) hpsq
  | time d => exact h.congr rfl rfl rfl rfl
  | reset =>
    have hreset : PathInv State.reset := by constructor <;> decide
    exact hreset.congr rfl rfl rfl rfl
  | fuEnd => exact h.congr (by simp) (by simp) (by simp) (by simp)
  | arbStart => exact h.arbStart _ _
  | arb _ _ _ hu => exact h.arb hu
  | psqStart => exact h.psqStart _ (by simp)
  | psqStartArb => exact h.psqStart _ (fun _ => rfl)
  | down hu => exact hu.pathInv h
  | @up p _ ho hi hu =>
    have hpup : pupInFlight (s.port p) = true := by
      simp [pupInFlight, latchedSat, hi, (hseq.port p).psqRun.mpr ho]
    obtain ⟨hcnt, hL2, hL3⟩ := hcov (by cases p; exacts [.inl hpup, .inr hpup])
    have hr : s.psq.arbReleased = false := by
      by_contra hr
      exact hL2 (hseq.request (hseq.released (by simpa using hr)))
    exact hu.pathInv ho hcnt hL3 hr

/-- Settles O50: every step keeps the path invariant, and with no request held the path is down. -/
theorem pathIsDownWithoutRequests : Obligations.PathIsDownWithoutRequests := by
  intro s t hseq _ h hcov hstep
  obtain ⟨u, rfl, hu⟩ := hseq.step_cases hstep
  have hadvance : PathInv u.advance := (hu.pathInv hseq h hcov).congr rfl rfl rfl rfl
  exact ⟨hadvance, fun h0 => State.pathDown_iff.mp (hadvance.down h0)⟩

end Sys2Proof.Machine
end

section
/-! PROOFS. Family 20, memory: the register store. `RS.update` does what rule R43 says (O12), and every step keeps the
canonical form of the store (O13) and the chip's agreement with the control fields (O15). The last two go through the
history: a step's control fields and store are a replay of the events it appends (`step_follows`), and a replay is a
sequence of `RS.update`s. -/

namespace Sys2Proof.Machine

/-- Settles O12: the lemmas of the control fields and of `updateBits`; the frame is the definition's. -/
theorem rsUpdateWritesFieldEventAndStore : Obligations.RsUpdateWritesFieldEventAndStore := by
  intro s f v hw
  exact ⟨Ctl.get_set_same s.ctl f v, fun _ hg => Ctl.get_set_other s.ctl v hg, rfl,
    Memory.read_updateBits_same _ _ hw, fun _ ha => Memory.read_updateBits_other _ _ _ ha,
    rfl, rfl, rfl, rfl, rfl, rfl, rfl, rfl, rfl, rfl⟩

/-! ### The canonical form (rules R41, R43) -/

/-- A replay keeps the canonical form: each `RSUpdate` in it is an update of a byte in the address space. -/
theorem Memory.wf_replayStore {m : Memory} (es : List Event) (hw : Memory.wf m = true) :
    Memory.wf (replayStore m es) = true := by
  induction es generalizing m with
  | nil => exact hw
  | cons e es ih =>
    cases e with
    | rsUpdate f v => exact ih (Memory.wf_updateBits (addr_lt f) hw)
    | _ => exact ih hw

/-- Settles O13: reset leaves the store alone, and every other step replays what it appends to the history. -/
theorem storeStaysCanonical : Obligations.StoreStaysCanonical := by
  intro s t hw h
  by_cases hm : s.move = .rst
  · obtain rfl : s.applyReset.advance = t := by simpa [step, hm] using h
    exact hw
  · obtain ⟨es, -, -, hstore⟩ := step_follows hm h
    exact hstore ▸ Memory.wf_replayStore es hw

/-! ### The chip's copy of the control fields (rules R43 to R45, R192) -/

/-- `RS.update` keeps the agreement: it makes the chip agree about its own field and leaves the others'. -/
theorem State.rsUpdate_storeAgrees {s : State} (f : CtlField) (v : Byte) (hw : Memory.wf s.store = true)
    (h : StoreAgrees s) : StoreAgrees (s.rsUpdate f v) := by
  intro g
  by_cases hg : g = f
  · exact hg ▸ State.rsUpdate_agrees_same f v hw
  · exact (State.rsUpdate_agrees_other v hw hg).mpr (h g)

/-- So does a replay, of a state with a canonical store. -/
theorem storeAgrees_of_replay {s t : State} (es : List Event) (hw : Memory.wf s.store = true) (h : StoreAgrees s)
    (hctl : t.ctl = replayCtl s.ctl es) (hstore : t.store = replayStore s.store es) : StoreAgrees t := by
  induction es generalizing s with
  | nil => intro f; rw [hctl, hstore]; exact h f
  | cons e es ih =>
    cases e with
    | rsUpdate f v =>
      exact ih (s := s.rsUpdate f v) (s.rsUpdate_wf f v hw) (State.rsUpdate_storeAgrees f v hw h) hctl hstore
    | _ => exact ih hw h hctl hstore

/-- Settles O15: every step but reset is, to control fields and store, a replay of what it appends to the history. -/
theorem storeAgreementIsKept : Obligations.StoreAgreementIsKept := by
  intro s t _ hw hs hm h
  obtain ⟨es, -, hctl, hstore⟩ := step_follows hm h
  exact ⟨storeAgrees_of_replay es hw hs hctl hstore, storeStaysCanonical s t hw h⟩

end Sys2Proof.Machine
end

section
/-! PROOFS. Family 20, memory: whose command a move takes a step of. When a command is due the step is `exec` of it
(O41) and when none is, the move is without effect (O42). Then, from what `exec` is at an engine's turn: the labels of
`REL` (O27) and the start of a sequence (O34). -/

namespace Sys2Proof.Machine

/-! ### Command due, or nothing due (rules R52, R56, R71, R81, R120, R151) -/

/-- At an engine's turn the step is `exec` of the command latched at the port the engine works for. -/
theorem step_eq_exec {s : State} {p : Port} {i : Instr} (hi : decode (s.port p).cmdLatch = .ok i) (hturn : s.EngineTurn)
    (hport : s.execPort = p) : step s = exec i s := by
  obtain ⟨q, hm, hdue⟩ | ⟨q, hm, hdue⟩ | ⟨r, hm, hdue⟩ := hturn <;>
    simp [step, hm, hdue, runDue, runCommand, State.commandWord, hport, hi]

/-- A format unit with a command issued to it has its turn. -/
theorem engineTurn_fu {s : State} {p : Port} (hm : s.move = .fu p) (hp : (s.port p).pend = .fu) : s.EngineTurn :=
  .inl ⟨p, hm, if_pos hp⟩

/-- The arbiter has its turn while a port holds the lock. -/
theorem engineTurn_arb {s : State} {p : Port} (hm : s.arbMoves = true) (hl : s.clk.lock = .held p) : s.EngineTurn := by
  obtain ⟨q, hq⟩ := State.arbMoves_iff.mp hm
  exact .inr (.inl ⟨q, hq, by simp [State.dueArb, hl]⟩)

/-- So it has when it is offered a waiting port while it is idle. -/
theorem engineTurn_arb_free {s : State} {p : Port} (hm : s.move = .arb p) (hl : s.clk.lock = .free)
    (hs : s.arb.seq = .idle) (hp : (s.port p).pend = .arbWait) : s.EngineTurn :=
  .inr (.inl ⟨p, hm, by simp [State.dueArb, hl, hs, hp]⟩)

/-- The sequencer has its turn while a port owns it. -/
theorem engineTurn_psq {s : State} {p : Port} (hm : s.psqMoves = true) (ho : s.psq.owner = .port p) : s.EngineTurn := by
  obtain ⟨r, hr⟩ := State.psqMoves_iff.mp hm
  exact .inr (.inr ⟨r, hr, by simp [State.duePsq, ho]⟩)

/-- So it has while it works for the arbiter, on behalf of the port holding the lock. -/
theorem engineTurn_psq_arb {s : State} {p : Port} (hm : s.psqMoves = true) (ho : s.psq.owner = .arb)
    (hl : s.clk.lock = .held p) : s.EngineTurn := by
  obtain ⟨r, hr⟩ := State.psqMoves_iff.mp hm
  exact .inr (.inr ⟨r, hr, by simp [State.duePsq, State.duePsqForArb, ho, hl]⟩)

/-- So it has when it is offered a waiting port while it is idle. -/
theorem engineTurn_psq_free {s : State} {p : Port} (hm : s.move = .psq (.port p)) (ho : s.psq.owner = .none)
    (hs : s.psq.seq = .idle) (hp : (s.port p).pend = .psqWait) : s.EngineTurn :=
  .inr (.inr ⟨_, hm, by simp [State.duePsq, ho, hs, hp]⟩)

/-- And when it is offered the arbiter's request, not yet served. -/
theorem engineTurn_psq_request {s : State} {p : Port} (hm : s.move = .psq .arb) (ho : s.psq.owner = .none)
    (hs : s.psq.seq = .idle) (hr : s.psq.reqArb = true) (hd : s.psq.arbReleased = false) (hl : s.clk.lock = .held p) :
    s.EngineTurn :=
  .inr (.inr ⟨_, hm, by simp [State.duePsq, State.duePsqForArb, ho, hs, hr, hd, hl]⟩)

/-- The sequencer works for the arbiter on behalf of the port holding the lock (rule R54). -/
theorem State.execPort_psq_arb {s : State} {p : Port} (hm : s.psqMoves = true) (ho : s.psq.owner = .arb)
    (hl : s.clk.lock = .held p) : s.execPort = p := by
  obtain ⟨r, hr⟩ := State.psqMoves_iff.mp hm
  simp [State.execPort, State.execPort.lockHolder, hr, ho, hl]

/-- Also when it is about to start for it. -/
theorem State.execPort_psq_request {s : State} {p : Port} (hm : s.move = .psq .arb) (ho : s.psq.owner = .none)
    (hl : s.clk.lock = .held p) : s.execPort = p := by
  simp [State.execPort, State.execPort.lockHolder, hm, ho, hl]

/-! ### A word placed on port 0 (rules R61, R71; log 6) -/

/-- The move that takes up a placed word is the next one. -/
@[simp] theorem State.placeCommand_move (s : State) (w : Word) : (s.placeCommand w).move = placeMove w := rfl

/-- Port 0 has the placed word latched and waits for the engine of the word. -/
theorem State.placeCommand_port (s : State) (w : Word) :
    ((s.placeCommand w).port .p0).cmdLatch = w ∧ ((s.placeCommand w).port .p0).pend = issuePend w := by
  unfold State.placeCommand State.issue
  dsimp only
  split <;> simp [PortState.issued, State.setPort, *]

/-- The arbiter is idle when the word is for it. -/
theorem State.placeCommand_arb (s : State) {w : Word} (h : issuePend w = .arbWait) :
    (s.placeCommand w).clk.lock = .free ∧ (s.placeCommand w).arb.seq = .idle := by
  simp [State.placeCommand, h]

/-- The sequencer is idle when the word is for it. -/
theorem State.placeCommand_psq (s : State) {w : Word} (h : issuePend w = .psqWait) :
    (s.placeCommand w).psq.owner = .none ∧ (s.placeCommand w).psq.seq = .idle := by
  simp [State.placeCommand, h]

/-- The step after a legal word has been placed is `exec` of its command. -/
theorem step_placeCommand (s : State) {w : Word} {i : Instr} (hi : decode w = .ok i) :
    step (s.placeCommand w) = exec i (s.placeCommand w) := by
  obtain ⟨hlatch, hpend⟩ := s.placeCommand_port w
  have hi : decode ((s.placeCommand w).port .p0).cmdLatch = .ok i := hlatch.symm ▸ hi
  obtain hw | hw | hw := issuePend_waits w <;> rw [hw] at hpend
  · have hm : (s.placeCommand w).move = .fu .p0 := by simp [placeMove, hw]
    exact step_eq_exec hi (engineTurn_fu hm hpend) (State.execPort_fu hm)
  · have hm : (s.placeCommand w).move = .arb .p0 := by simp [placeMove, hw]
    obtain ⟨hl, hs⟩ := s.placeCommand_arb hw
    exact step_eq_exec hi (engineTurn_arb_free hm hl hs hpend) (State.execPort_arb_free hm hl)
  · have hm : (s.placeCommand w).move = .psq (.port .p0) := by simp [placeMove, hw]
    obtain ⟨ho, hs⟩ := s.placeCommand_psq hw
    exact step_eq_exec hi (engineTurn_psq_free hm ho hs hpend) (State.execPort_psq_free hm ho)

/-- A placed natural number is cut to the 32 bits of a word. -/
theorem State.withFetchWord_eq (s : State) (w : Nat) : s.withFetchWord 32 w = s.placeCommand (BitVec.ofNat 32 w) := by
  unfold State.withFetchWord
  congr 1
  exact BitVec.eq_of_toNat_eq (by simp)

/-- Settles O41: in each case the engine has its turn and works for the port named. -/
theorem stepRunsTheDecodedCommand : Obligations.StepRunsTheDecodedCommand := by
  refine ⟨fun s p i hi => ⟨?_, ?_, ?_, ?_, ?_, ?_, ?_⟩, fun s w i hi => ?_⟩
  · exact fun hm hp => step_eq_exec hi (engineTurn_fu hm hp) (State.execPort_fu hm)
  · exact fun hm hl => step_eq_exec hi (engineTurn_arb hm hl) (State.execPort_arb hm hl)
  · exact fun hm hl hs hp => step_eq_exec hi (engineTurn_arb_free hm hl hs hp) (State.execPort_arb_free hm hl)
  · exact fun hm ho => step_eq_exec hi (engineTurn_psq hm ho) (State.execPort_psq hm ho)
  · exact fun hm ho hl => step_eq_exec hi (engineTurn_psq_arb hm ho hl) (State.execPort_psq_arb hm ho hl)
  · exact fun hm ho hs hp => step_eq_exec hi (engineTurn_psq_free hm ho hs hp) (State.execPort_psq_free hm ho)
  · exact fun hm ho hs hr hd hl =>
      step_eq_exec hi (engineTurn_psq_request hm ho hs hr hd hl) (State.execPort_psq_request hm ho hl)
  · rw [State.withFetchWord_eq]
    exact step_placeCommand s hi

/-- A format unit without a command does nothing. -/
theorem step_fu_idle {s : State} {p : Port} (hm : s.move = .fu p) (hp : (s.port p).pend ≠ .fu) :
    step s = .next s.advance := by
  simp [step, hm, State.dueFu, hp, runDue]

/-- An idle arbiter offered a port that does not wait for it does nothing. -/
theorem step_arb_idle {s : State} {p : Port} (hm : s.move = .arb p) (hl : s.clk.lock = .free) (hs : s.arb.seq = .idle)
    (hp : (s.port p).pend ≠ .arbWait) : step s = .next s.advance := by
  simp [step, hm, State.dueArb, hl, hs, hp, runDue]

/-- An idle sequencer offered a port that does not wait for it does nothing. -/
theorem step_psq_idle {s : State} {p : Port} (hm : s.move = .psq (.port p)) (ho : s.psq.owner = .none)
    (hs : s.psq.seq = .idle) (hp : (s.port p).pend ≠ .psqWait) : step s = .next s.advance := by
  simp [step, hm, State.duePsq, ho, hs, hp, runDue]

/-- An idle sequencer offered an arbiter that asks for nothing, or has been served, does nothing. -/
theorem step_psq_served {s : State} (hm : s.move = .psq .arb) (ho : s.psq.owner = .none) (hs : s.psq.seq = .idle)
    (hr : s.psq.reqArb = false ∨ s.psq.arbReleased = true) : step s = .next s.advance := by
  have hno : ¬ (s.psq.reqArb = true ∧ s.psq.arbReleased = false) := by
    rintro ⟨hreq, hrel⟩
    simp [hreq, hrel] at hr
  simp [step, hm, State.duePsq, ho, hs, hno, runDue]

/-- Settles O42: in each case nothing is due. -/
theorem nothingDueNothingDone : Obligations.NothingDueNothingDone :=
  fun _ _ => ⟨step_fu_idle, step_arb_idle, step_psq_idle, step_psq_served⟩

/-! ### The labels of `REL` (rule R97) -/

/-- At the arbiter's turn, outside a settle wait, `exec` takes the step of the listing. -/
theorem exec_arbTurn {i : Instr} {s : State} {p : Port} (hi : instrEngine i = .arb) (hm : s.arbMoves = true)
    (hl : s.clk.lock = .held p) (hr : s.arbReady = true) (hs : s.arb.seq ≠ .idle) :
    exec i s = answer (arbListing i s p) := by
  rw [exec_arbCommand hi hm, State.execPort_arb hm hl, arbCommand_step hr hs]

/-- No label of `REL` follows a settle wait. -/
theorem exec_rel_eq {s u : State} {p : Port} {l : ArbLabel} (hl : l ∈ [ArbLabel.L0, .L1, .L2, .L3, .L4, .L5])
    (hu : s.arb.seq = l → s.relStep p = .ok u) (h : s.ArbTurn p l) : exec .rel s = .next u.advance := by
  obtain ⟨hm, hlock, hseq⟩ := h
  have hfree : l ≠ .idle ∧ arbWaitBefore l = none := by clear hu hseq; revert l; decide
  have hr : s.arbReady = true := State.arbReady_of_waits (by simp [hseq, hfree.2])
  rw [exec_arbTurn (i := .rel) rfl hm hlock hr (hseq ▸ hfree.1)]
  simp [arbListing, hu hseq]

/-- Settles O27: each label's line of the listing, the branch its hypotheses choose. -/
theorem relSteps : Obligations.RelSteps := by
  refine fun s p => ⟨?_, ?_, ?_, ?_, ?_, ?_, ?_, ?_, ?_, ?_⟩
  · exact fun h hc => exec_rel_eq (by decide) (fun hl => by simp [State.relStep, hl, hc]) h
  · exact fun h hc => exec_rel_eq (by decide) (fun hl => by simp only [State.relStep, hl, if_neg hc]) h
  · exact fun h hc => exec_rel_eq (by decide) (fun hl => by simp [State.relStep, hl, hc]) h
  · exact fun h hc => exec_rel_eq (by decide) (fun hl => by simp [State.relStep, hl, Nat.not_lt.mpr hc]) h
  · exact fun h hr => exec_rel_eq (by decide) (fun hl => by simp [State.relStep, State.relHold, hl, hr]) h
  · exact fun h hr hd => exec_rel_eq (by decide) (fun hl => by simp [State.relStep, State.relHold, hl, hr, hd]) h
  · exact fun h hr hd => exec_rel_eq (by decide) (fun hl => by simp [State.relStep, State.relHold, hl, hr, hd]; rfl) h
  · exact fun h => exec_rel_eq (by decide) (fun hl => by simp [State.relStep, hl]; rfl) h
  · exact fun h => exec_rel_eq (by decide) (fun hl => by simp [State.relStep, hl]; rfl) h
  · exact fun h => exec_rel_eq (by decide) (fun hl => by simp [State.relStep, hl]) h

/-! ### The start of a sequence (rules R54, R151) -/

/-- The start for a waiting port (rule R151). -/
theorem State.psqStartPort_eq {s : State} {p : Port} (l : PsqLabel) (hp : (s.port p).pend = .psqWait) :
    s.psqStartPort p l = s.psqStart (.port p) l := if_pos hp

/-- The start for an arbiter that asks and has not been served (rules R97, R151). -/
theorem State.psqStartArb_eq {s : State} (hr : s.psq.reqArb = true) (hd : s.psq.arbReleased = false) :
    s.psqStartArb = s.psqStart .arb .D1 := if_pos ⟨hr, by simp [hd]⟩

/-- Settles O34: an idle sequencer takes its start, and the start is enabled. -/
theorem sequencerStart : Obligations.SequencerStart := by
  refine fun s hs => ⟨fun p hm ho hp => ?_, fun hm hr hd => ?_⟩
  · have hstarted : ∀ l, s.psqStartPort s.execPort l =
        { s.setPort p { s.port p with pend := .psqRun } with psq := { s.psq with seq := l, owner := .port p } } :=
      fun l => by rw [State.execPort_psq_free hm ho, State.psqStartPort_eq l hp]; simp [State.psqStart]
    exact ⟨(psqCommand_start hs).trans (by rw [hstarted]), (psqCommand_start hs).trans (by rw [hstarted])⟩
  · exact (execRel_psq hm).trans ((psqCommand_start hs).trans (by rw [State.psqStartArb_eq hr hd]; rfl))

end Sys2Proof.Machine
end

section
/-! PROOFS. Family 20, memory: what each move makes of a well-sequenced state, with the move and the condition that
chooses (`MoveStep`). From it: who loses the lock and when (O46), and what happens to the command of a port
(`PortMoved`). -/

namespace Sys2Proof.Machine

/-! ### Everything a move does (rules R51, R52, R81, R120, R151) -/

/-- `MoveStep s m u`: the move `m` makes `u` of the well-sequenced state `s`, before it is counted. Where `SeqStep` says
only what a step can be, this says which of them a given move takes, and when it takes none: fairness speaks of moves. -/
inductive MoveStep (s : State) : Move → State → Prop where
  | host (a : HostAccess) : MoveStep s (.host a) (s.hostAccess a)
  | xtal : MoveStep s .xtal s.xtalReady
  | time (d : Nat) : MoveStep s (.time d) (s.passTime d)
  | rst : MoveStep s .rst s.applyReset
  | fuIdle {p : Port} (hp : (s.port p).pend ≠ .fu) : MoveStep s (.fu p) s
  | fuEnd {p : Port} {q : PortState} {code : BitVec 4} (hp : (s.port p).pend = .fu) (hpend : q.pend = .none)
      (hbusy : q.status.busy = false) (hdone : q.status.done = true) :
      MoveStep s (.fu p) ((s.setPort p q).log (.complete p code))
  | arbIdle {p : Port} (hl : s.clk.lock = .free) (hp : (s.port p).pend ≠ .arbWait) : MoveStep s (.arb p) s
  | arbStart {p : Port} (l : ArbLabel) (hl : s.clk.lock = .free) (hp : (s.port p).pend = .arbWait) :
      MoveStep s (.arb p) (s.arbStart p l)
  | arbHeld {r p : Port} (hl : s.clk.lock = .held p) (hr : s.arbReady = false) : MoveStep s (.arb r) s
  | arb {r p : Port} {i : Instr} {u : State} (hl : s.clk.lock = .held p) (hr : s.arbReady = true)
      (hu : arbListing i s p = .ok u) : MoveStep s (.arb r) u
  | psqIdle {p : Port} (ho : s.psq.owner = .none) (hp : (s.port p).pend ≠ .psqWait) : MoveStep s (.psq (.port p)) s
  | psqStart {p : Port} (l : PsqLabel) (ho : s.psq.owner = .none) (hp : (s.port p).pend = .psqWait) :
      MoveStep s (.psq (.port p)) (s.psqStart (.port p) l)
  | psqServed (ho : s.psq.owner = .none) (hr : s.psq.reqArb = false ∨ s.psq.arbReleased = true) :
      MoveStep s (.psq .arb) s
  | psqStartArb (ho : s.psq.owner = .none) : MoveStep s (.psq .arb) (s.psqStart .arb .D1)
  | psqHeld {r : Requester} (ho : s.psq.owner ≠ .none) (hr : s.psqReady = false) : MoveStep s (.psq r) s
  | down {r : Requester} {u : State} (ho : s.psq.owner ≠ .none) (hu : DownStep s u) : MoveStep s (.psq r) u
  | up {r : Requester} {u : State} (ho : s.psq.owner ≠ .none) (hu : UpStep s u) : MoveStep s (.psq r) u

/-- The step `s` takes is the one of move `m`. -/
def StepsBy (s : State) (m : Move) : Prop := ∃ u, step s = .next u.advance ∧ MoveStep s m u

/-- A move of a format unit. -/
theorem SeqInv.stepsBy_fu {s : State} (h : SeqInv s) {p : Port} (hm : s.move = .fu p) : StepsBy s (.fu p) := by
  by_cases hp : (s.port p).pend = .fu
  case neg => exact ⟨s, step_fu_idle hm hp, .fuIdle hp⟩
  have hport : s.execPort = p := State.execPort_fu hm
  cases hd : decode (s.port p).cmdLatch with
  | error e =>
    refine ⟨s.rejectWord p e, ?_, .fuEnd (q := { s.port p with status := _, pend := .none }) hp rfl
      (Status.failed_busy _ _) (Status.failed_done _ _)⟩
    simp [Machine.step, hm, State.dueFu, hp, runDue, hport, runCommand, State.commandWord, hd]
  | ok i =>
    have he := instrEngine_of_issuePend_fu hd ((h.port p).fu hp)
    obtain ⟨t, ht⟩ : ∃ t, exec i s = .next t := by cases i <;> cases he <;> exact ⟨_, rfl⟩
    obtain ⟨q, code, hpend, hbusy, hdone, -, rfl⟩ := execFu_next he ht
    rw [hport] at ht
    exact ⟨_, (step_eq_exec hd (engineTurn_fu hm hp) hport).trans ht, .fuEnd hp hpend hbusy hdone⟩

/-- A move of the arbiter. -/
theorem SeqInv.stepsBy_arb {s : State} (h : SeqInv s) {p : Port} (hm : s.move = .arb p) : StepsBy s (.arb p) := by
  have harb : s.arbMoves = true := State.arbMoves_iff.mpr ⟨p, hm⟩
  cases hl : s.clk.lock with
  | free =>
    have hs := h.lockFree.mp hl
    by_cases hp : (s.port p).pend = .arbWait
    case neg => exact ⟨s, step_arb_idle hm hl hs hp, .arbIdle hl hp⟩
    obtain ⟨i, hi, he⟩ := decode_of_issuePend_arb ((h.port p).arbWait hp)
    have hport : s.execPort = p := State.execPort_arb_free hm hl
    have hr : s.arbReady = true := State.arbReady_of_waits (by simp [hs, arbWaitBefore])
    refine ⟨_, ?_, .arbStart (firstLabel i) hl hp⟩
    rw [step_eq_exec hi (engineTurn_arb_free hm hl hs hp) hport, exec_arbCommand he harb]
    simp [arbCommand, hr, hs, hport]
  | held q =>
    have hport := State.execPort_arb harb hl
    obtain ⟨i, hi, hlabel⟩ := latchedSat_iff.mp ((h.port q).arbLabel hl)
    have he := instrEngine_of_arbLabelOf hlabel
    have hstep := step_eq_exec hi (engineTurn_arb harb hl) hport
    cases hr : s.arbReady with
    | false => exact ⟨s, by rw [hstep, exec_arbCommand he harb, arbCommand_held hr], .arbHeld hl hr⟩
    | true =>
      obtain ⟨u, hu⟩ := arbListing_ok q hlabel
      refine ⟨u, ?_, .arb hl hr hu⟩
      rw [hstep, exec_arbTurn he harb hl hr (ne_idle_of_arbLabelOf hlabel), hu, answer_ok]

/-- A move of the sequencer inside a sequence: it waits or takes the step of its label. -/
theorem stepsBy_of_psqCommand {s b : State} {n : Except Fault State} {r : Requester} (hstep : step s = psqCommand b n s)
    (ho : s.psq.owner ≠ .none) (hs : s.psq.seq ≠ .idle) (hn : ∃ u, n = .ok u ∧ MoveStep s (.psq r) u) :
    StepsBy s (.psq r) := by
  cases hr : s.psqReady with
  | false => exact ⟨s, by rw [hstep, psqCommand_held hr], .psqHeld ho hr⟩
  | true =>
    obtain ⟨u, hu, hmove⟩ := hn
    exact ⟨u, by rw [hstep, psqCommand_step hr hs, hu, answer_ok], hmove⟩

/-- A move of the sequencer. -/
theorem SeqInv.stepsBy_psq {s : State} (h : SeqInv s) {r : Requester} (hm : s.move = .psq r) : StepsBy s (.psq r) := by
  have hpsq : s.psqMoves = true := State.psqMoves_iff.mpr ⟨r, hm⟩
  cases ho : s.psq.owner with
  | port q =>
    have hne : s.psq.owner ≠ .none := by simp [ho]
    obtain ⟨i, hi, hl⟩ := latchedSat_iff.mp ((h.port q).psqLabel ho)
    have hstep := step_eq_exec hi (engineTurn_psq hpsq ho) (State.execPort_psq hpsq ho)
    obtain ⟨rfl, hmem⟩ | ⟨rfl, hmem⟩ := psqLabelOf_iff.mp hl
    · obtain ⟨u, hu⟩ := State.powerDownStep_ok hmem hne
      exact stepsBy_of_psqCommand hstep hne (ne_idle_of_psqLabelOf hl) ⟨u, hu, .down hne (State.powerDownStep_cases hu)⟩
    · obtain ⟨u, hu⟩ := State.powerUpStep_ok hmem hne
      exact stepsBy_of_psqCommand hstep hne (ne_idle_of_psqLabelOf hl) ⟨u, hu, .up hne (State.powerUpStep_cases hu)⟩
  | arb =>
    have hne : s.psq.owner ≠ .none := by simp [ho]
    obtain ⟨hreq, -, hmem⟩ := h.arbOwner ho
    obtain ⟨q, hl, hi⟩ := h.rel_of_request hreq
    have hstep := step_eq_exec hi (engineTurn_psq_arb hpsq ho hl) (State.execPort_psq_arb hpsq ho hl)
    obtain ⟨u, hu⟩ := State.powerDownStep_ok hmem hne
    exact stepsBy_of_psqCommand (hstep.trans (execRel_psq hpsq)) hne (h.noOwner.not.mp hne)
      ⟨u, hu, .down hne (State.powerDownStep_cases hu)⟩
  | none =>
    have hs := h.noOwner.mp ho
    cases r with
    | port p =>
      by_cases hp : (s.port p).pend = .psqWait
      case neg => exact ⟨s, step_psq_idle hm ho hs hp, .psqIdle ho hp⟩
      have hport := State.execPort_psq_free hm ho
      have hstep := fun i hi => step_eq_exec (i := i) hi (engineTurn_psq_free hm ho hs hp) hport
      have hstart : ∀ l, s.psqStartPort s.execPort l = s.psqStart (.port p) l := fun l => by
        rw [hport, State.psqStartPort_eq l hp]
      obtain hi | hi := decode_of_issuePend_psq ((h.port p).psqWait hp)
      · exact ⟨_, (hstep _ hi).trans ((psqCommand_start hs).trans (by rw [hstart])), .psqStart .D1 ho hp⟩
      · exact ⟨_, (hstep _ hi).trans ((psqCommand_start hs).trans (by rw [hstart])), .psqStart .U1 ho hp⟩
    | arb =>
      by_cases hdue : s.psq.reqArb = false ∨ s.psq.arbReleased = true
      case pos => exact ⟨s, step_psq_served hm ho hs hdue, .psqServed ho hdue⟩
      simp only [not_or, Bool.not_eq_false, Bool.not_eq_true] at hdue
      obtain ⟨hr, hd⟩ := hdue
      obtain ⟨q, hl, hi⟩ := h.rel_of_request hr
      have hstep := step_eq_exec hi (engineTurn_psq_request hm ho hs hr hd hl) (State.execPort_psq_request hm ho hl)
      exact ⟨_, hstep.trans ((execRel_psq hpsq).trans ((psqCommand_start hs).trans
        (by rw [State.psqStartArb_eq hr hd]))), .psqStartArb ho⟩

/-- A well-sequenced state takes the step of its move. -/
theorem SeqInv.stepsBy {s : State} (h : SeqInv s) : StepsBy s s.move := by
  cases hm : s.move with
  | host a => exact ⟨_, step_host hm, .host a⟩
  | fu p => exact h.stepsBy_fu hm
  | arb p => exact h.stepsBy_arb hm
  | psq r => exact h.stepsBy_psq hm
  | xtal => exact ⟨_, by simp [Machine.step, hm], .xtal⟩
  | time d => exact ⟨_, by simp [Machine.step, hm], .time d⟩
  | rst => exact ⟨_, by simp [Machine.step, hm], .rst⟩

/-- Whatever step a well-sequenced state takes is its move's. -/
theorem SeqInv.moveStep {s t : State} (h : SeqInv s) (ht : Machine.step s = .next t) :
    ∃ u, t = u.advance ∧ MoveStep s s.move u := by
  obtain ⟨u, hu, hs⟩ := h.stepsBy
  exact ⟨u, Host.Outcome.next.inj (ht.symm.trans hu), hs⟩

/-! ### Whom a move concerns -/

/-- Only the arbiter's move and reset touch the clock state and the arbiter. -/
theorem MoveStep.arb_kept {s u : State} {m : Move} (h : MoveStep s m u) (hrst : m ≠ .rst) (harb : ∀ p, m ≠ .arb p) :
    u.clk = s.clk ∧ u.arb = s.arb := by
  cases h with
  | host a =>
    obtain ⟨hclk, harb, -⟩ := s.hostAccess_kept a
    exact ⟨hclk, harb⟩
  | xtal =>
    obtain ⟨hclk, harb, -⟩ := s.xtalReady_kept
    exact ⟨hclk, harb⟩
  | rst => exact absurd rfl hrst
  | arbIdle | arbStart | arbHeld | arb => exact absurd rfl (harb _)
  | psqStart l =>
    obtain ⟨hclk, harb, -⟩ := s.psqStart_kept (.port _) l
    exact ⟨hclk, harb⟩
  | down _ hu => exact ⟨hu.clk_eq, hu.arb_eq⟩
  | up _ hu => exact ⟨hu.clk_eq, hu.arb_eq⟩
  | _ => simp [State.psqStart]

/-- Settles O46: only the arbiter's move or reset reaches the lock; a move of the arbiter ends the command of the port
holding the lock or keeps the lock. -/
theorem lockFreedOnlyAtTheEnd : Obligations.LockFreedOnlyAtTheEnd := by
  intro s t p h hl ht hne
  obtain ⟨u, rfl, hu⟩ := h.moveStep ht
  by_cases hrst : s.move = .rst
  · exact .inl hrst
  by_cases hm : ∃ r, s.move = .arb r
  case neg =>
    obtain ⟨hclk, -⟩ := hu.arb_kept hrst (not_exists.mp hm)
    exact absurd (hclk ▸ hl) hne
  refine .inr ⟨State.arbMoves_iff.mpr hm, ?_⟩
  obtain ⟨r, hr⟩ := hm
  rw [hr] at hu
  cases hu with
  | arbIdle hfree => simp [hl] at hfree
  | arbStart l hfree => simp [hl] at hfree
  | arbHeld => exact absurd hl hne
  | @arb _ q i _ hq _ hlist =>
    obtain rfl : p = q := by simpa [hl] using hq
    obtain ⟨hfree, hidle, ⟨st, hbusy, hdone, hport⟩, hev⟩ | ⟨hkept, -⟩ := (arbStep_of_listing hlist).ends
    · exact ⟨hfree, hidle, by simp [hport], by simp [hport, hbusy], by simp [hport, hdone], hev⟩
    · exact absurd (hkept.trans hl) hne

end Sys2Proof.Machine
end

section
/-! PROOFS. Family 20, memory: in a fair run every waiting command is granted its engine and every command ends (O43).
What happens to the command of a port in one move (`PortMoved`); how far each engine is from the end of its command
(`State.arbRank`, `State.psqRank`), which no move raises and the engine's own lowers unless it is held; and what
fairness makes of these along a run. -/

namespace Sys2Proof.Machine

/-! ### The command of a port in one move (rules R25, R53, R81, R82, R151) -/

/-- What becomes of the command in flight on port `p`: it is left as it is, granted its engine, or ended by it. -/
inductive PortMoved (s u : State) (p : Port) : Prop where
  | kept (h : (u.port p).pend = (s.port p).pend)
  | arbGranted (hs : (s.port p).pend = .arbWait) (hu : (u.port p).pend = .arbRun) (hl : u.clk.lock = .held p)
  | psqGranted (hs : (s.port p).pend = .psqWait) (hu : (u.port p).pend = .psqRun) (ho : u.psq.owner = .port p)
  | ended (hs : (s.port p).pend = .fu ∨ (s.port p).pend = .arbRun ∨ (s.port p).pend = .psqRun)
      (hbusy : (u.port p).status.busy = false) (hdone : (u.port p).status.done = true)

/-- It reads the port, the clock state and the sequencer. -/
theorem PortMoved.congr {s u t : State} {p : Port} (h : PortMoved s u p) (hport : t.port p = u.port p)
    (hclk : t.clk = u.clk) (hpsq : t.psq = u.psq) : PortMoved s t p := by
  cases h with
  | kept h => exact .kept (hport ▸ h)
  | arbGranted hs hu hl => exact .arbGranted hs (hport ▸ hu) (hclk ▸ hl)
  | psqGranted hs hu ho => exact .psqGranted hs (hport ▸ hu) (hpsq ▸ ho)
  | ended hs hbusy hdone => exact .ended hs (hport ▸ hbusy) (hport ▸ hdone)

/-- A move that leaves the port alone. -/
theorem portMoved_of_eq {s u : State} {p : Port} (h : u.port p = s.port p) : PortMoved s u p := .kept (by rw [h])

/-- An access of the host leaves the command in flight alone: an issue to a busy port is dropped (rule R61). -/
theorem portMoved_hostAccess {s : State} (h : SeqInv s) (a : HostAccess) {p : Port} (hp : (s.port p).pend ≠ .none) :
    PortMoved s (s.hostAccess a) p := by
  have hrewrite : ∀ r q, q.pend = (s.port r).pend → PortMoved s (s.setPort r q) p := fun r q hq => by
    obtain rfl | rfl := eq_or_eq_otherPort r p
    · exact .kept (by simpa using hq)
    · exact portMoved_of_eq (by simp)
  cases a with
  | read z o => exact portMoved_of_eq (by cases p <;> rfl)
  | write z o v =>
    simp only [State.hostAccess, State.slaveWrite]
    split
    case h_1 r _ =>
      simp only [State.issue]
      split
      case isTrue => exact hrewrite r _ rfl
      case isFalse hb =>
        obtain rfl | rfl := eq_or_eq_otherPort r p
        · exact absurd ((h.port p).busy_of_pend hp) hb
        · exact portMoved_of_eq (by simp)
    case h_2 => exact hrewrite _ _ rfl
    case h_3 => exact hrewrite _ _ rfl
    case h_4 => exact portMoved_of_eq rfl

/-- The end of a sequence ends the command of the port that owns the sequencer, and no other. -/
theorem PsqEnded.portMoved {s v u : State} (h : SeqInv s) (hu : PsqEnded v u) (hport : ∀ r, v.port r = s.port r)
    (hpsq : v.psq = s.psq) (p : Port) : PortMoved s u p := by
  cases hu with
  | @port r ho =>
    obtain rfl | rfl := eq_or_eq_otherPort r p
    · exact .ended (.inr (.inr ((h.port p).psqRun.mpr (hpsq ▸ ho)))) (by simp) (by simp)
    · refine portMoved_of_eq ?_
      rw [State.finish_port_other]
      exact (by cases r <;> rfl : _ = v.port (otherPort r)).trans (hport _)
  | arb ho => exact portMoved_of_eq ((by cases p <;> rfl : _ = v.port p).trans (hport p))

/-- Every move but reset leaves, grants or ends the command in flight on a port. -/
theorem MoveStep.portMoved {s u : State} {m : Move} (hu : MoveStep s m u) (h : SeqInv s) (hrst : m ≠ .rst) {p : Port}
    (hp : (s.port p).pend ≠ .none) : PortMoved s u p := by
  cases hu with
  | host a => exact portMoved_hostAccess h a hp
  | xtal =>
    obtain ⟨-, -, -, -, -, -, -, hp0, hp1, -⟩ := s.xtalReady_kept
    exact portMoved_of_eq (by cases p <;> assumption)
  | time d => exact portMoved_of_eq (by simp)
  | rst => exact absurd rfl hrst
  | fuIdle | arbIdle | arbHeld | psqIdle | psqServed | psqHeld => exact portMoved_of_eq rfl
  | @fuEnd r q code hr _ hbusy hdone =>
    obtain rfl | rfl := eq_or_eq_otherPort r p
    · exact .ended (.inl hr) (by simpa using hbusy) (by simpa using hdone)
    · exact portMoved_of_eq (by simp)
  | @arbStart r l hl hr =>
    rw [State.arbStart_eq l hl hr]
    obtain rfl | rfl := eq_or_eq_otherPort r p
    · exact .arbGranted hr (by cases p <;> rfl) rfl
    · exact portMoved_of_eq (by cases r <;> rfl)
  | @arb _ r i _ hl _ hlist =>
    have hstep := arbStep_of_listing hlist
    obtain rfl | rfl := eq_or_eq_otherPort r p
    · obtain ⟨-, -, ⟨st, hbusy, hdone, hport⟩, -⟩ | ⟨-, hport, -⟩ := hstep.ends
      · exact .ended (.inr (.inl ((h.port p).arbRun.mpr hl))) (by simp [hport, hbusy]) (by simp [hport, hdone])
      · exact portMoved_of_eq hport
    · exact portMoved_of_eq hstep.kept.other
  | @psqStart r l ho hr =>
    obtain rfl | rfl := eq_or_eq_otherPort r p
    · exact .psqGranted hr (by cases p <;> rfl) rfl
    · exact portMoved_of_eq (by cases r <;> rfl)
  | psqStartArb ho => exact portMoved_of_eq (by cases p <;> rfl)
  | down _ hd =>
    cases hd
    case D6 hl hend => exact hend.portMoved h (by simp) rfl p
    all_goals exact portMoved_of_eq (by simp)
  | up _ hu =>
    cases hu
    case U5 hl hend => exact hend.portMoved h (by simp) rfl p
    all_goals exact portMoved_of_eq (by simp)

/-! ### How far the sequencer is from the end of its sequence (rules R153, R156, R180) -/

/-- The steps left of a sequence, from a label on. -/
def PsqLabel.rank : PsqLabel → Nat
  | .idle => 0
  | .D6 | .U5 => 1
  | .D5 | .U4 => 2
  | .D4 | .U3 => 3
  | .D3 | .U2 => 4
  | .D2 | .U1 => 5
  | .D1 => 6

/-- The steps the sequencer has left. -/
def State.psqRank (s : State) : Nat := s.psq.seq.rank

/-- The end of a sequence leaves none. -/
theorem PsqEnded.psqRank {s u : State} (h : PsqEnded s u) : u.psqRank = 0 := by
  cases h <;> simp [State.psqRank, PsqLabel.rank]

/-- Each step of the power-down takes one. -/
theorem DownStep.psqRank_lt {s u : State} (h : DownStep s u) : u.psqRank < s.psqRank := by
  cases h
  case D6 hl hu => rw [hu.psqRank]; simp [State.psqRank, hl, PsqLabel.rank]
  all_goals simp [State.psqRank, PsqLabel.rank, *]

/-- Each step of the power-up takes one. -/
theorem UpStep.psqRank_lt {s u : State} (h : UpStep s u) : u.psqRank < s.psqRank := by
  cases h
  case U5 hl hu => rw [hu.psqRank]; simp [State.psqRank, hl, PsqLabel.rank]
  all_goals simp [State.psqRank, PsqLabel.rank, *]

/-- The sequencer's own part of its state is as before. -/
structure PsqUntouched (s u : State) : Prop where
  seq : u.psq.seq = s.psq.seq
  owner : u.psq.owner = s.psq.owner
  wt : u.psq.wt = s.psq.wt

/-- A move while the sequencer has an owner leaves it alone or takes a step of its sequence. -/
theorem MoveStep.psq_cases {s u : State} {m : Move} (hu : MoveStep s m u) (hrst : m ≠ .rst)
    (ho : s.psq.owner ≠ .none) : PsqUntouched s u ∨ DownStep s u ∨ UpStep s u := by
  have heq : ∀ v : State, v.psq = s.psq → PsqUntouched s v := fun v hv => by constructor <;> rw [hv]
  cases hu with
  | host a =>
    obtain ⟨-, -, hpsq, -⟩ := s.hostAccess_kept a
    exact .inl (heq _ hpsq)
  | xtal =>
    obtain ⟨-, -, hpsq, -⟩ := s.xtalReady_kept
    exact .inl (heq _ hpsq)
  | rst => exact absurd rfl hrst
  | arbStart l =>
    obtain ⟨-, hpsq, -⟩ := s.arbStart_kept _ l
    exact .inl (heq _ hpsq)
  | arb hl _ hlist =>
    have hkept := (arbStep_of_listing hlist).kept
    exact .inl ⟨hkept.psqSeq, hkept.owner, hkept.psqWt⟩
  | psqIdle hn | psqStart _ hn | psqServed hn | psqStartArb hn => exact absurd hn ho
  | down _ hd => exact .inr (.inl hd)
  | up _ hu => exact .inr (.inr hu)
  | _ => exact .inl (heq _ (by simp))

/-- So it lowers the rank or leaves the sequencer alone. -/
theorem MoveStep.psqRank {s u : State} {m : Move} (hu : MoveStep s m u) (hrst : m ≠ .rst) (ho : s.psq.owner ≠ .none) :
    u.psqRank < s.psqRank ∨ PsqUntouched s u := by
  obtain hsame | hd | hup := hu.psq_cases hrst ho
  · exact .inr hsame
  · exact .inl hd.psqRank_lt
  · exact .inl hup.psqRank_lt

/-- The sequencer's own move takes a step unless it is held. -/
theorem MoveStep.psqRank_lt {s u : State} {r : Requester} (hu : MoveStep s (.psq r) u) (ho : s.psq.owner ≠ .none)
    (hr : s.psqReady = true) : u.psqRank < s.psqRank := by
  cases hu with
  | psqIdle hn | psqStart _ hn | psqServed hn | psqStartArb hn => exact absurd hn ho
  | psqHeld _ hh => simp [hr] at hh
  | down _ hd => exact hd.psqRank_lt
  | up _ hu => exact hu.psqRank_lt

/-- A sequence run for the arbiter ends by its release (rule R151). -/
theorem PsqEnded.arbReleased {s u : State} (h : PsqEnded s u) (ho : s.psq.owner = .arb) : u.psq.arbReleased = true := by
  cases h with
  | port hp => simp [ho] at hp
  | arb => rfl

/-- Until then the arbiter owns the sequencer. -/
theorem MoveStep.arbReleased {s u : State} {m : Move} (hu : MoveStep s m u) (hrst : m ≠ .rst)
    (ho : s.psq.owner = .arb) : u.psq.owner = .arb ∨ u.psq.arbReleased = true := by
  obtain hsame | hd | hup := hu.psq_cases hrst (by simp [ho])
  · exact .inl (hsame.owner.trans ho)
  · cases hd
    case D6 hl hend => exact .inr (hend.arbReleased ho)
    all_goals exact .inl ho
  · cases hup
    case U5 hl hend => exact .inr (hend.arbReleased ho)
    all_goals exact .inl ho

/-! ### How far the arbiter is from the end of its command (rules R86, R88, R97 to R104, R108, R111, R180) -/

/-- The labels of the longest way from a label to the end of a command, through the source switch where it is called. -/
def ArbLabel.rank : ArbLabel → Nat
  | .idle => 0
  | .C1 | .A7 | .L5 | .W1 => 1
  | .C0 | .A6 => 2
  | .A5 => 3
  | .E9 | .P10 | .O4 => 4
  | .E8 | .P9 | .O3 => 5
  | .E7 | .P8 | .O2 => 6
  | .E6 | .P7 | .O1 => 7
  | .P6 => 8
  | .X5 => 9
  | .X4 => 10
  | .X3 => 11
  | .X2 => 12
  | .X1 => 13
  | .S1 => 14
  | .S0 => 15
  | .A4 | .L4 | .W0 => 16
  | .A3 | .L3 => 17
  | .A2 | .L2 => 18
  | .A1 => 19
  | .A0 | .L1 => 20
  | .L0 => 21

/-- The steps the arbiter has left; L2 takes one step to ask and one to go on (rule R97, log 7). -/
def State.arbRank (s : State) : Nat :=
  s.arb.seq.rank + if s.arb.seq = .L2 ∧ s.psq.reqArb = false then 1 else 0

/-- The arbiter is held: inside a settle wait, at L2 until the sequencer has served it, or at X4 until the crystal
signals or the time is over. -/
def State.arbHolds (s : State) : Prop :=
  s.arbReady = false ∨ (s.arb.seq = .L2 ∧ s.psq.reqArb = true ∧ s.psq.arbReleased = false) ∨
    (s.arb.seq = .X4 ∧ s.now - s.arb.wt < xtalTimeout)

/-- Outside L2 the rank is the label's. -/
theorem State.arbRank_of_ne {s : State} (h : s.arb.seq ≠ .L2) : s.arbRank = s.arb.seq.rank := by
  simp [State.arbRank, h]

/-- A state whose label is of lower rank is of lower rank, unless it is at L2, where it may have to ask first. -/
theorem State.arbRank_lt {s u : State} {k : Nat} (hs : s.arb.seq.rank = k) (hu : u.arb.seq.rank < k)
    (hL2 : u.arb.seq ≠ .L2) : u.arbRank < s.arbRank := by
  rw [State.arbRank_of_ne hL2]
  unfold State.arbRank
  omega

/-- A caller's label comes after the switch. -/
theorem ReturnLabel.label_rank (r : ReturnLabel) : r.label.rank < 4 ∧ r.label ≠ .L2 := by cases r <;> decide

/-- The tail of the crystal's branch comes after X5. -/
theorem State.gotoTail_rank (s : State) : s.gotoTail.arb.seq.rank < 9 ∧ s.gotoTail.arb.seq ≠ .L2 := by
  obtain h | h := s.gotoTail_seq <;> rw [h] <;> decide

/-- A step of the source switch lowers the rank, but for X4 while it waits. -/
theorem State.switchStep_rank {s u : State} {p : Port} (h : s.switchStep p = .ok u) :
    u.arbRank < s.arbRank ∨ (u = s ∧ s.arbHolds) := by
  have hto : ∀ (v : State) (l : ArbLabel), v.arb.seq = l → l.rank < s.arb.seq.rank → l ≠ .L2 → v.arbRank < s.arbRank :=
    fun v l hv hlt hne => State.arbRank_lt rfl (hv ▸ hlt) (hv ▸ hne)
  have hback : ∀ v : State, v.arb.ret = s.arb.ret → 4 ≤ s.arb.seq.rank → v.switchReturn.arbRank < s.arbRank := by
    intro v hret hrank
    obtain ⟨hlt, hne⟩ := s.arb.ret.label_rank
    exact hto _ _ (v.switchReturn_seq.trans (by rw [hret])) (by omega) hne
  have htail : ∀ v : State, 9 ≤ s.arb.seq.rank → v.gotoTail.arbRank < s.arbRank := by
    intro v hrank
    obtain ⟨hlt, hne⟩ := v.gotoTail_rank
    exact hto _ _ rfl (by omega) hne
  unfold State.switchStep at h
  split at h <;> rename_i hl <;> cases h
  case h_1.refl =>
    left; split
    · exact hback s rfl (by rw [hl]; decide)
    · exact hto _ .S1 (by simp) (by rw [hl]; decide) (by decide)
  case h_2.refl =>
    left; split
    · exact hto _ .idle (by simp) (by rw [hl]; decide) (by decide)
    split
    · exact hto _ .O1 (by simp) (by rw [hl]; decide) (by decide)
    · exact hto _ .X1 (by simp) (by rw [hl]; decide) (by decide)
  case h_3.refl =>
    left; split
    · exact htail _ (by rw [hl]; decide)
    · exact hto _ .X2 (by simp) (by rw [hl]; decide) (by decide)
  case h_6.refl =>
    unfold State.xtalWait
    split
    · exact .inl (hto _ .X5 (by simp) (by rw [hl]; decide) (by decide))
    split
    · exact .inl (hto _ .X5 (by simp) (by rw [hl]; decide) (by decide))
    · exact .inr ⟨rfl, .inr (.inr ⟨hl, Nat.not_le.mp ‹_›⟩)⟩
  case h_7.refl =>
    left; split
    · exact htail _ (by rw [hl]; decide)
    · exact hto _ .idle (by simp) (by rw [hl]; decide) (by decide)
  case h_11.refl | h_16.refl | h_20.refl => exact .inl (hback _ rfl (by rw [hl]; decide))
  all_goals exact .inl (hto _ _ (by simp; rfl) (by rw [hl]; decide) (by decide))

/-- A listing's own step lowers the rank, but for L2 while it waits. -/
theorem CallerStep.arbRank {s u : State} {p : Port} {i : Instr} (h : CallerStep s p i u) :
    u.arbRank < s.arbRank ∨ (u = s ∧ s.arbHolds) := by
  cases h
  case L2_hold hl hr hd => exact .inr ⟨rfl, .inr (.inl ⟨hl, hr, hd⟩)⟩
  case L1 hl _ => exact .inl (by simp only [State.arbRank, State.arbGoto_arb, hl, ArbLabel.rank]; split <;> simp)
  all_goals left; simp [State.arbRank, ArbLabel.rank, State.callSwitch, *]

/-- A step of a listing lowers the rank unless the arbiter is held, and then does nothing. -/
theorem arbListing_rank {i : Instr} {s u : State} {p : Port} (h : arbListing i s p = .ok u) :
    u.arbRank < s.arbRank ∨ (u = s ∧ s.arbHolds) := by
  obtain hc | hc := arbListing_cases h
  · exact hc.arbRank
  · exact State.switchStep_rank hc

/-- The arbiter's request is as before, and a release of it is not taken back. -/
structure RequestKept (s u : State) : Prop where
  request : u.psq.reqArb = s.psq.reqArb
  released : s.psq.arbReleased = true → u.psq.arbReleased = true

/-- A step that leaves the sequencer's request and release alone. -/
theorem requestKept_of_eq {s u : State} (hr : u.psq.reqArb = s.psq.reqArb)
    (hd : u.psq.arbReleased = s.psq.arbReleased) : RequestKept s u := ⟨hr, fun h => hd.trans h⟩

/-- The end of a sequence can only release. -/
theorem PsqEnded.requestKept {s v u : State} (h : PsqEnded v u) (hpsq : v.psq = s.psq) : RequestKept s u := by
  cases h with
  | port => exact requestKept_of_eq (by simp [hpsq]) (by simp [hpsq])
  | arb => exact ⟨by simp [hpsq], fun _ => rfl⟩

/-- Only the arbiter's move and reset touch the arbiter's request (rule R97). -/
theorem MoveStep.requestKept {s u : State} {m : Move} (hu : MoveStep s m u) (hrst : m ≠ .rst)
    (harb : ∀ p, m ≠ .arb p) : RequestKept s u := by
  cases hu with
  | host a =>
    obtain ⟨-, -, hpsq, -⟩ := s.hostAccess_kept a
    exact requestKept_of_eq (by rw [hpsq]) (by rw [hpsq])
  | xtal =>
    obtain ⟨-, -, hpsq, -⟩ := s.xtalReady_kept
    exact requestKept_of_eq (by rw [hpsq]) (by rw [hpsq])
  | rst => exact absurd rfl hrst
  | arbIdle | arbStart | arbHeld | arb => exact absurd rfl (harb _)
  | psqStart l =>
    obtain ⟨-, -, -, -, -, -, -, -, hpsq⟩ := s.psqStart_kept (.port _) l
    exact requestKept_of_eq (by rw [hpsq]) (by rw [hpsq])
  | down _ hd =>
    cases hd
    case D6 hl hend => exact hend.requestKept rfl
    all_goals exact requestKept_of_eq rfl rfl
  | up _ hup =>
    cases hup
    case U5 hl hend => exact hend.requestKept rfl
    all_goals exact requestKept_of_eq rfl rfl
  | _ => exact requestKept_of_eq (by simp [State.psqStart]) (by simp [State.psqStart])

/-- Lock, arbiter and request are as before. -/
structure ArbStays (s u : State) : Prop where
  lock : u.clk.lock = s.clk.lock
  arb : u.arb = s.arb
  request : RequestKept s u

/-- A move while the lock is held lowers the rank or leaves the arbiter where it is. -/
theorem MoveStep.arbRank {s u : State} {m : Move} (hu : MoveStep s m u) (hrst : m ≠ .rst) {p : Port}
    (hl : s.clk.lock = .held p) : u.arbRank < s.arbRank ∨ ArbStays s u := by
  have hself : ArbStays s s := ⟨rfl, rfl, rfl, id⟩
  by_cases hm : ∃ r, m = .arb r
  case neg =>
    obtain ⟨hclk, harb⟩ := hu.arb_kept hrst (not_exists.mp hm)
    exact .inr ⟨by rw [hclk], harb, hu.requestKept hrst (not_exists.mp hm)⟩
  obtain ⟨r, rfl⟩ := hm
  cases hu with
  | arbIdle hn | arbStart _ hn => simp [hl] at hn
  | arbHeld => exact .inr hself
  | arb _ _ hlist =>
    obtain hlt | ⟨rfl, -⟩ := arbListing_rank hlist
    · exact .inl hlt
    · exact .inr hself

/-- The arbiter's own move lowers the rank unless the arbiter is held. -/
theorem MoveStep.arbRank_lt {s u : State} {r : Port} (hu : MoveStep s (.arb r) u) {p : Port}
    (hl : s.clk.lock = .held p) (hh : ¬ s.arbHolds) : u.arbRank < s.arbRank := by
  cases hu with
  | arbIdle hn | arbStart _ hn => simp [hl] at hn
  | arbHeld _ hr => exact absurd (.inl hr) hh
  | arb _ _ hlist =>
    obtain hlt | ⟨-, hh'⟩ := arbListing_rank hlist
    · exact hlt
    · exact absurd hh' hh

end Sys2Proof.Machine
end

section
/-! PROOFS. Family 20, memory: what fairness makes of a run (O43). An engine that has a command lowers its rank again
and again, because time goes on and the sequencer serves the arbiter, so it is free again and again; then every
requester is granted it. So no command stays where it is for ever. -/

namespace Sys2Proof.Machine

/-! ### Runs up to the schedule (rule R51) -/

/-- `t` shows what `u` shows: the schedule apart, and what no engine reads. -/
structure SameButSchedule (u t : State) : Prop where
  clk : t.clk = u.clk
  arb : t.arb = u.arb
  psq : t.psq = u.psq
  now : t.now = u.now
  port : ∀ p, t.port p = u.port p

/-- Counting a move shows nothing. -/
theorem sameButSchedule_advance (s : State) : SameButSchedule s s.advance := ⟨rfl, rfl, rfl, rfl, by simp⟩

/-- Nor does another schedule. -/
theorem sameButSchedule_sched (s : State) (x : List Move) : SameButSchedule s { s with sched := x } :=
  ⟨rfl, rfl, rfl, rfl, fun p => by cases p <;> rfl⟩

/-- One is shown through another. -/
theorem SameButSchedule.trans {s t u : State} (h : SameButSchedule s t) (h' : SameButSchedule t u) :
    SameButSchedule s u :=
  ⟨h'.clk.trans h.clk, h'.arb.trans h.arb, h'.psq.trans h.psq, h'.now.trans h.now,
    fun p => (h'.port p).trans (h.port p)⟩

/-- The sequencing invariant is shown. -/
theorem SeqInv.same {u t : State} (h : SeqInv u) (ht : SameButSchedule u t) : SeqInv t :=
  h.congr ht.port (by rw [ht.clk]) ht.arb ht.psq

/-- What is seen of a state is shown. -/
def Shown {α : Type} (f : State → α) : Prop := ∀ u t, SameButSchedule u t → f t = f u

/-- Each of the three things watched below is. -/
theorem shown_arbRank : Shown State.arbRank := fun _ _ h => by simp only [State.arbRank, h.arb, h.psq]
theorem shown_psqRank : Shown State.psqRank := fun _ _ h => by simp only [State.psqRank, h.psq]
theorem shown_pend (p : Port) : Shown (fun s => (s.port p).pend) := fun _ _ h => by simp only [h.port]

/-- A move that changes something shown is enabled. -/
theorem enabled_of_changes {α : Type} {f : State → α} (hf : Shown f) {s : State} (h : SeqInv s) {m : Move}
    (hm : ∀ u, MoveStep { s with sched := [m] } m u → f u ≠ f s) : s.enabled m := by
  intro heq
  have hs := sameButSchedule_sched s [m]
  obtain ⟨u, hu, hmove⟩ := (h.same hs).stepsBy
  have hadv : u.advance = State.advance { s with sched := [m] } := Host.Outcome.next.inj (hu.symm.trans heq)
  refine hm u hmove ?_
  calc f u = f u.advance := (hf _ _ (sameButSchedule_advance u)).symm
    _ = f (State.advance { s with sched := [m] }) := by rw [hadv]
    _ = f s := hf _ _ (hs.trans (sameButSchedule_advance _))

/-! ### Sequences of naturals -/

/-- What holds at `n` and no longer at `k` is last true somewhere between. -/
theorem exists_last {P : Nat → Prop} {n k : Nat} (hnk : n ≤ k) (hn : P n) (hk : ¬ P k) :
    ∃ j ≥ n, P j ∧ ¬ P (j + 1) := by
  by_contra hno
  push Not at hno
  exact hk (Nat.le_induction hn (fun j hj hp => hno j hj hp) k hnk)

/-- A rank that falls again and again until `Q` brings `Q` about. -/
theorem eventually_of_rank {N : Nat} (rank : Nat → Nat) {Q : Nat → Prop}
    (h : ∀ n ≥ N, ¬ Q n → ∃ k ≥ n, rank k < rank n) : ∀ n ≥ N, ∃ k ≥ n, Q k := by
  intro n
  induction hr : rank n using Nat.strong_induction_on generalizing n with
  | _ r ih =>
    intro hn
    by_cases hq : Q n
    · exact ⟨n, le_refl n, hq⟩
    obtain ⟨k, hk, hlt⟩ := h n hn hq
    obtain ⟨j, hj, hQ⟩ := ih (rank k) (hr ▸ hlt) k rfl (hn.trans hk)
    exact ⟨j, hk.trans hj, hQ⟩

/-! ### The settle waits end (rules R5, R180) -/

/-- No wait of the arbiter is longer than the crystal-ready wait. -/
theorem duration_le_of_arbWaitBefore {l : ArbLabel} {w : WaitName} (h : arbWaitBefore l = some w) :
    duration w ≤ xtalTimeout := by
  have hbound : durationBound w = some maxSettle := by
    cases l <;> cases h <;> rfl
  exact (duration_le hbound).trans (by decide)

/-- No wait of the sequencer is longer than the one after power-up. -/
theorem duration_le_of_psqWaitBefore {l : PsqLabel} {w : WaitName} (h : psqWaitBefore l = some w) :
    duration w ≤ dacStartup := by
  have hpdn := lt_of_lt_of_le duration_pdnSettle_lt (min_le_left _ _)
  cases l <;> cases h
  · exact hpdn.le
  · exact le_refl _

/-- Once the longest wait has passed, the sequencer is not held. -/
theorem State.psqReady_of_late {s : State} (h : s.psq.wt + dacStartup ≤ s.now) : s.psqReady = true :=
  State.psqReady_of_waits fun w hw => by
    have := duration_le_of_psqWaitBefore hw
    omega

/-- Nor is the arbiter, but at L2 before it is served. -/
theorem State.not_arbHolds_of_late {s : State} (h : s.arb.wt + xtalTimeout ≤ s.now)
    (hL2 : s.arb.seq = .L2 → s.psq.reqArb = true → s.psq.arbReleased = true) : ¬ s.arbHolds := by
  have hready : s.arbReady = true := State.arbReady_of_waits fun w hw => by
    have := duration_le_of_arbWaitBefore hw
    omega
  rintro (hr | ⟨hl, hr, hd⟩ | ⟨-, hlt⟩)
  · simp [hready] at hr
  · simp [hL2 hl hr] at hd
  · omega

/-! ### Grants (rules R52, R81, R151) -/

/-- The arbiter offered a port it can be granted to, is granted to it. -/
theorem MoveStep.arb_granted {s u : State} {p : Port} (hu : MoveStep s (.arb p) u)
    (hg : s.canGrant (.arb p) = true) : (u.port p).pend = .arbRun := by
  simp only [State.canGrant, Bool.and_eq_true, beq_iff_eq] at hg
  obtain ⟨⟨hl, hs⟩, hp⟩ := hg
  cases hu with
  | arbIdle _ hne => exact absurd hp hne
  | arbStart l => rw [State.arbStart_eq l hl hp]; cases p <;> rfl
  | arbHeld hh | arb hh => simp [hl] at hh

/-- The sequencer offered a port it can be granted to, is granted to it. -/
theorem MoveStep.psq_granted {s u : State} {p : Port} (hu : MoveStep s (.psq (.port p)) u)
    (hg : s.canGrant (.psq (.port p)) = true) : (u.port p).pend = .psqRun := by
  simp only [State.canGrant, Bool.and_eq_true, beq_iff_eq] at hg
  obtain ⟨⟨ho, hs⟩, hp⟩ := hg
  cases hu with
  | psqIdle _ hne => exact absurd hp hne
  | psqStart l => cases p <;> rfl
  | psqHeld hne | down hne | up hne => exact absurd ho hne

/-- The sequencer offered the arbiter's request, is granted to it. -/
theorem MoveStep.psqArb_granted {s u : State} (hu : MoveStep s (.psq .arb) u)
    (hg : s.canGrant (.psq .arb) = true) : u.psq.owner = .arb := by
  simp only [State.canGrant, Bool.and_eq_true, beq_iff_eq, Bool.not_eq_true'] at hg
  obtain ⟨⟨⟨ho, hs⟩, hr⟩, hd⟩ := hg
  cases hu with
  | psqServed _ hno => simp [hr, hd] at hno
  | psqStartArb => rfl
  | psqHeld hne | down hne | up hne => exact absurd ho hne

/-! ### A fair run from a well-sequenced state -/

section
variable {σ : Nat → State} (hσ : FairRun σ) (h0 : SeqInv (σ 0))
include hσ h0

/-- Every state of the run is well sequenced. -/
theorem FairRun.seqInv (n : Nat) : SeqInv (σ n) := by
  induction n with
  | zero => exact h0
  | succ n ih =>
    obtain ⟨t, ht, heq⟩ := hσ.run n
    obtain ⟨u, rfl, hu⟩ := ih.step_cases ht
    rw [heq]
    exact (hu.seqInv ih).advance.same (sameButSchedule_sched _ _)

/-- The next state of the run is what the move made, but for the schedule. -/
theorem FairRun.next (n : Nat) : ∃ u, MoveStep (σ n) (σ n).move u ∧ SameButSchedule u (σ (n + 1)) := by
  obtain ⟨t, ht, heq⟩ := hσ.run n
  obtain ⟨u, rfl, hu⟩ := (hσ.seqInv h0 n).moveStep ht
  rw [heq]
  exact ⟨u, hu, (sameButSchedule_advance u).trans (sameButSchedule_sched _ _)⟩

/-- If from `n` on a move of an engine would change what `f` shows, what `f` shows changes. -/
theorem FairRun.progress {α : Type} {f : State → α} (hf : Shown f) {m : Move} (hm : engineMove m = true) {n : Nat}
    (hch : ∀ k ≥ n, ∀ x u, MoveStep { σ k with sched := x } m u → f u ≠ f (σ k)) :
    ∃ k ≥ n, f (σ (k + 1)) ≠ f (σ k) := by
  obtain ⟨k, hk, hmove | hdis⟩ := hσ.engine m hm n
  · obtain ⟨u, hu, hsame⟩ := hσ.next h0 k
    refine ⟨k, hk, ?_⟩
    rw [hf _ _ hsame]
    exact hch k hk (σ k).sched u (hmove ▸ hu)
  · exact absurd (enabled_of_changes hf (hσ.seqInv h0 k) fun u hu => hch k hk _ u hu) hdis

omit h0 in
/-- From some step on it is later than any given instant. -/
theorem FairRun.late (d n : Nat) : ∃ K ≥ n, ∀ k ≥ K, d ≤ (σ k).now := by
  have hmono : Monotone fun k => (σ k).now := monotone_nat_of_le_succ fun k => by
    obtain ⟨t, ht, heq⟩ := hσ.run k
    have hnow : (σ (k + 1)).now = t.now := by rw [heq]
    obtain ⟨d, -, rfl⟩ | ⟨-, hw⟩ := step_time_or_waitsKept ht
    · rw [hnow]; exact Nat.le_add_right _ _
    · rw [hnow, hw.now]
  obtain ⟨K, hK⟩ := hσ.time d
  exact ⟨max n K, le_max_left _ _, fun k hk => hK.trans (hmono ((le_max_right _ _).trans hk))⟩

/-! ### Without reset, every engine is free again and again -/

variable {N : Nat} (hrst : ∀ k ≥ N, (σ k).move ≠ .rst)
include hrst

/-- A sequencer that takes no step of its sequence stays where it is. -/
theorem FairRun.psq_stays {n : Nat} (hn : n ≥ N) (ho : (σ n).psq.owner ≠ .none)
    (hle : ∀ k ≥ n, (σ n).psqRank ≤ (σ k).psqRank) : ∀ k ≥ n, PsqUntouched (σ n) (σ k) := by
  refine Nat.le_induction ⟨rfl, rfl, rfl⟩ fun k hk ih => ?_
  obtain ⟨u, hu, hsame⟩ := hσ.next h0 k
  have hrank : (σ k).psqRank = (σ n).psqRank := by simp only [State.psqRank, ih.seq]
  have hnext := hle (k + 1) (by omega)
  rw [shown_psqRank _ _ hsame] at hnext
  obtain hlt | hstay := hu.psqRank (hrst k (hn.le.trans hk)) (ih.owner ▸ ho)
  · omega
  · exact ⟨by rw [hsame.psq, hstay.seq, ih.seq], by rw [hsame.psq, hstay.owner, ih.owner],
      by rw [hsame.psq, hstay.wt, ih.wt]⟩

/-- A sequencer with an owner takes a step of the sequence. -/
theorem FairRun.psqRank_falls {n : Nat} (hn : n ≥ N) (ho : (σ n).psq.owner ≠ .none) :
    ∃ k ≥ n, (σ k).psqRank < (σ n).psqRank := by
  by_contra hno
  push Not at hno
  have hstay := hσ.psq_stays h0 hrst hn ho hno
  obtain ⟨K, hK, hlate⟩ := hσ.late ((σ n).psq.wt + dacStartup) n
  have hch : ∀ k ≥ K, ∀ x u, MoveStep { σ k with sched := x } (.psq .arb) u → u.psqRank ≠ (σ k).psqRank := by
    intro k hk x u hu
    have hk' := hstay k (hK.le.trans hk)
    have hr : (σ k).psqReady = true := State.psqReady_of_late (by rw [hk'.wt]; exact hlate k hk)
    exact (hu.psqRank_lt (hk'.owner ▸ ho) hr).ne
  obtain ⟨k, hk, hne⟩ := hσ.progress h0 shown_psqRank (m := .psq .arb) rfl hch
  refine hne ?_
  simp only [State.psqRank, (hstay k (hK.le.trans hk)).seq, (hstay (k + 1) (by omega)).seq]

/-- The sequencer is free again and again. -/
theorem FairRun.psq_free : ∀ n ≥ N, ∃ k ≥ n, (σ k).psq.owner = .none :=
  eventually_of_rank (fun n => (σ n).psqRank) fun _ hn ho => hσ.psqRank_falls h0 hrst hn ho

/-- A request of the arbiter that stands is served. -/
theorem FairRun.request_served {n : Nat} (hn : n ≥ N) (hr : ∀ k ≥ n, (σ k).psq.reqArb = true) :
    ∃ k ≥ n, (σ k).psq.arbReleased = true := by
  by_contra hno
  push Not at hno
  have hagain : ∀ j, ∃ k ≥ j, (σ k).canGrant (.psq .arb) = true := by
    intro j
    obtain ⟨k, hk, ho⟩ := hσ.psq_free h0 hrst (max j n) (hn.le.trans (le_max_right _ _))
    have hkn : k ≥ n := (le_max_right _ _).trans hk
    have hd : (σ k).psq.arbReleased = false := by simpa using hno k hkn
    exact ⟨k, (le_max_left _ _).trans hk, by
      simp [State.canGrant, ho, (hσ.seqInv h0 k).noOwner.mp ho, hr k hkn, hd]⟩
  obtain ⟨k, hk, hg, hm⟩ := hσ.grant (.psq .arb) n hagain
  obtain ⟨u, hu, hsame⟩ := hσ.next h0 k
  have hown : (σ (k + 1)).psq.owner = .arb := by rw [hsame.psq]; exact (hm ▸ hu).psqArb_granted hg
  obtain ⟨j, hj, hfree⟩ := hσ.psq_free h0 hrst (k + 1) (by omega)
  obtain ⟨i, hi, harb, hlast⟩ := exists_last (P := fun i => (σ i).psq.owner = .arb) hj hown (by simp [hfree])
  obtain ⟨v, hv, hvsame⟩ := hσ.next h0 i
  refine hno (i + 1) (by omega) ?_
  rw [hvsame.psq] at hlast ⊢
  exact (hv.arbReleased (hrst i (by omega)) harb).resolve_left hlast

/-- An arbiter that takes no step of its command stays where it is. -/
theorem FairRun.arb_stays {n : Nat} (hn : n ≥ N) {p : Port} (hl : (σ n).clk.lock = .held p)
    (hle : ∀ k ≥ n, (σ n).arbRank ≤ (σ k).arbRank) : ∀ k ≥ n, ArbStays (σ n) (σ k) := by
  refine Nat.le_induction ⟨rfl, rfl, rfl, id⟩ fun k hk ih => ?_
  obtain ⟨u, hu, hsame⟩ := hσ.next h0 k
  have hrank : (σ k).arbRank = (σ n).arbRank := by simp only [State.arbRank, ih.arb, ih.request.request]
  have hnext := hle (k + 1) (by omega)
  rw [shown_arbRank _ _ hsame] at hnext
  obtain hlt | hstay := hu.arbRank (hrst k (hn.le.trans hk)) (ih.lock.trans hl)
  · omega
  · exact ⟨by rw [hsame.clk, hstay.lock, ih.lock], by rw [hsame.arb, hstay.arb, ih.arb],
      by rw [hsame.psq, hstay.request.request, ih.request.request],
      fun hd => by rw [hsame.psq]; exact hstay.request.released (ih.request.released hd)⟩

/-- An arbiter that stays where it is, is in the end held by nothing. -/
theorem FairRun.arb_not_held {n : Nat} (hn : n ≥ N) {p : Port} (hl : (σ n).clk.lock = .held p)
    (hle : ∀ k ≥ n, (σ n).arbRank ≤ (σ k).arbRank) : ∃ K ≥ n, ∀ k ≥ K, ¬ (σ k).arbHolds := by
  have hstay := hσ.arb_stays h0 hrst hn hl hle
  obtain ⟨K, hK, hlate⟩ := hσ.late ((σ n).arb.wt + xtalTimeout) n
  have hlate : ∀ k ≥ K, (σ k).arb.wt + xtalTimeout ≤ (σ k).now := fun k hk => by
    rw [(hstay k (hK.le.trans hk)).arb]; exact hlate k hk
  cases hr : (σ n).psq.reqArb with
  | false =>
    refine ⟨K, hK, fun k hk => State.not_arbHolds_of_late (hlate k hk) fun _ hreq => ?_⟩
    simp [(hstay k (hK.le.trans hk)).request.request, hr] at hreq
  | true =>
    obtain ⟨j, hj, hd⟩ := hσ.request_served h0 hrst hn fun k hk => (hstay k hk).request.request.trans hr
    have hrank : (σ j).arbRank = (σ n).arbRank := by
      simp only [State.arbRank, (hstay j hj).arb, (hstay j hj).request.request]
    have hserved := hσ.arb_stays h0 hrst (hn.le.trans hj) ((hstay j hj).lock.trans hl)
      fun k hk => hrank ▸ hle k (hj.le.trans hk)
    exact ⟨max K j, hK.le.trans (le_max_left _ _), fun k hk =>
      State.not_arbHolds_of_late (hlate k ((le_max_left _ _).trans hk)) fun _ _ =>
        (hserved k ((le_max_right _ _).trans hk)).request.released hd⟩

/-- An arbiter whose lock is held takes a step of its command. -/
theorem FairRun.arbRank_falls {n : Nat} (hn : n ≥ N) {p : Port} (hl : (σ n).clk.lock = .held p) :
    ∃ k ≥ n, (σ k).arbRank < (σ n).arbRank := by
  by_contra hno
  push Not at hno
  have hstay := hσ.arb_stays h0 hrst hn hl hno
  obtain ⟨K, hK, hfree⟩ := hσ.arb_not_held h0 hrst hn hl hno
  have hch : ∀ k ≥ K, ∀ x u, MoveStep { σ k with sched := x } (.arb p) u → u.arbRank ≠ (σ k).arbRank := by
    intro k hk x u hu
    exact (hu.arbRank_lt ((hstay k (hK.le.trans hk)).lock.trans hl) (hfree k hk)).ne
  obtain ⟨k, hk, hne⟩ := hσ.progress h0 shown_arbRank (m := .arb p) rfl hch
  have hk' := hstay k (hK.le.trans hk)
  have hk'' := hstay (k + 1) (by omega)
  refine hne ?_
  simp only [State.arbRank, hk'.arb, hk''.arb, hk'.request.request, hk''.request.request]

/-- The lock is free again and again. -/
theorem FairRun.lock_free : ∀ n ≥ N, ∃ k ≥ n, (σ k).clk.lock = .free :=
  eventually_of_rank (fun n => (σ n).arbRank) fun n hn hl => by
    cases hlock : (σ n).clk.lock with
    | free => exact absurd hlock hl
    | held p => exact hσ.arbRank_falls h0 hrst hn hlock

/-! ### So no command stays where it is (rules R52, R81, R82, R120, R151) -/

/-- A command waiting for the arbiter does not wait for ever. -/
theorem FairRun.arbWait_ends (p : Port) {n : Nat} (hn : n ≥ N) : ∃ k ≥ n, ((σ k).port p).pend ≠ .arbWait := by
  by_contra hno
  push Not at hno
  have hagain : ∀ j, ∃ k ≥ j, (σ k).canGrant (.arb p) = true := by
    intro j
    obtain ⟨k, hk, hl⟩ := hσ.lock_free h0 hrst (max j n) (hn.le.trans (le_max_right _ _))
    exact ⟨k, (le_max_left _ _).trans hk, by
      simp [State.canGrant, hl, (hσ.seqInv h0 k).lockFree.mp hl, hno k ((le_max_right _ _).trans hk)]⟩
  obtain ⟨k, hk, hg, hm⟩ := hσ.grant (.arb p) n hagain
  obtain ⟨u, hu, hsame⟩ := hσ.next h0 k
  have hrun : ((σ (k + 1)).port p).pend = .arbRun := by rw [hsame.port]; exact (hm ▸ hu).arb_granted hg
  simp [hno (k + 1) (by omega)] at hrun

/-- Nor one waiting for the sequencer. -/
theorem FairRun.psqWait_ends (p : Port) {n : Nat} (hn : n ≥ N) : ∃ k ≥ n, ((σ k).port p).pend ≠ .psqWait := by
  by_contra hno
  push Not at hno
  have hagain : ∀ j, ∃ k ≥ j, (σ k).canGrant (.psq (.port p)) = true := by
    intro j
    obtain ⟨k, hk, ho⟩ := hσ.psq_free h0 hrst (max j n) (hn.le.trans (le_max_right _ _))
    exact ⟨k, (le_max_left _ _).trans hk, by
      simp [State.canGrant, ho, (hσ.seqInv h0 k).noOwner.mp ho, hno k ((le_max_right _ _).trans hk)]⟩
  obtain ⟨k, hk, hg, hm⟩ := hσ.grant (.psq (.port p)) n hagain
  obtain ⟨u, hu, hsame⟩ := hσ.next h0 k
  have hrun : ((σ (k + 1)).port p).pend = .psqRun := by rw [hsame.port]; exact (hm ▸ hu).psq_granted hg
  simp [hno (k + 1) (by omega)] at hrun

omit hrst in
/-- Nor one that is its format unit's. -/
theorem FairRun.fu_ends (p : Port) (n : Nat) : ∃ k ≥ n, ((σ k).port p).pend ≠ .fu := by
  by_contra hno
  push Not at hno
  have hch : ∀ k ≥ n, ∀ x u, MoveStep { σ k with sched := x } (.fu p) u → (u.port p).pend ≠ ((σ k).port p).pend := by
    intro k hk x u hu
    rw [hno k hk]
    cases hu with
    | fuIdle hp => rw [(sameButSchedule_sched (σ k) x).port, hno k hk] at hp; exact absurd rfl hp
    | fuEnd hp hpend => simp [hpend]
  obtain ⟨k, hk, hne⟩ := hσ.progress h0 (shown_pend p) (m := .fu p) rfl hch
  exact hne ((hno (k + 1) (by omega)).trans (hno k hk).symm)

/-- No command in flight stays where it is for ever. -/
theorem FairRun.pend_changes {p : Port} {n : Nat} (hn : n ≥ N) (hp : ((σ n).port p).pend ≠ .none) :
    ∃ k ≥ n, ((σ k).port p).pend ≠ ((σ n).port p).pend := by
  cases hpend : ((σ n).port p).pend with
  | none => exact absurd hpend hp
  | fu => exact hσ.fu_ends h0 p n
  | arbWait => exact hσ.arbWait_ends h0 hrst p hn
  | psqWait => exact hσ.psqWait_ends h0 hrst p hn
  | arbRun =>
    obtain ⟨k, hk, hl⟩ := hσ.lock_free h0 hrst n hn
    exact ⟨k, hk, fun h => by simpa [hl] using ((hσ.seqInv h0 k).port p).arbRun.mp h⟩
  | psqRun =>
    obtain ⟨k, hk, ho⟩ := hσ.psq_free h0 hrst n hn
    exact ⟨k, hk, fun h => by simpa [ho] using ((hσ.seqInv h0 k).port p).psqRun.mp h⟩

/-- So at some step it is granted or ended, and until then it is where it was. -/
theorem FairRun.port_moves {p : Port} {n : Nat} (hn : n ≥ N) (hp : ((σ n).port p).pend ≠ .none) :
    ∃ k ≥ n, ((σ k).port p).pend = ((σ n).port p).pend ∧ ((σ (k + 1)).port p).pend ≠ ((σ n).port p).pend ∧
      PortMoved (σ k) (σ (k + 1)) p := by
  obtain ⟨j, hj, hne⟩ := hσ.pend_changes h0 hrst hn hp
  obtain ⟨k, hk, hsame, hch⟩ := exists_last (P := fun i => ((σ i).port p).pend = ((σ n).port p).pend) hj rfl hne
  obtain ⟨u, hu, ht⟩ := hσ.next h0 k
  exact ⟨k, hk, hsame, hch,
    (hu.portMoved (hσ.seqInv h0 k) (hrst k (hn.le.trans hk)) (hsame.symm ▸ hp)).congr (ht.port p) ht.clk ht.psq⟩

/-- A command an engine runs ends with `DONE` set. -/
theorem FairRun.running_ends {p : Port} {n : Nat} (hn : n ≥ N)
    (hp : ((σ n).port p).pend = .fu ∨ ((σ n).port p).pend = .arbRun ∨ ((σ n).port p).pend = .psqRun) :
    ∃ k ≥ n, ((σ k).port p).status.busy = true ∧ ((σ (k + 1)).port p).status.busy = false ∧
      ((σ (k + 1)).port p).status.done = true := by
  have hne : ((σ n).port p).pend ≠ .none := by rintro h; simp [h] at hp
  obtain ⟨k, hk, hsame, hch, hmoved⟩ := hσ.port_moves h0 hrst hn hne
  have hbusy := ((hσ.seqInv h0 k).port p).busy_of_pend (hsame.symm ▸ hne)
  cases hmoved with
  | kept h => exact absurd (h.trans hsame) hch
  | arbGranted hs | psqGranted hs => simp [← hsame, hs] at hp
  | ended _ hidle hdone => exact ⟨k, hk, hbusy, hidle, hdone⟩

/-- Every command in flight ends with `DONE` set. -/
theorem FairRun.busy_ends {p : Port} {n : Nat} (hn : n ≥ N) (hp : ((σ n).port p).pend ≠ .none) :
    ∃ k ≥ n, ((σ k).port p).status.busy = true ∧ ((σ (k + 1)).port p).status.busy = false ∧
      ((σ (k + 1)).port p).status.done = true := by
  obtain ⟨k, hk, hsame, hch, hmoved⟩ := hσ.port_moves h0 hrst hn hp
  cases hmoved with
  | kept h => exact absurd (h.trans hsame) hch
  | ended hs => exact hσ.running_ends h0 hrst hn (hsame ▸ hs)
  | arbGranted _ hu =>
    obtain ⟨j, hj, h⟩ := hσ.running_ends h0 hrst (n := k + 1) (by omega) (.inr (.inl hu))
    exact ⟨j, by omega, h⟩
  | psqGranted _ hu =>
    obtain ⟨j, hj, h⟩ := hσ.running_ends h0 hrst (n := k + 1) (by omega) (.inr (.inr hu))
    exact ⟨j, by omega, h⟩

end

/-- Settles O43: unless the block is reset from `n` on, the command in flight is granted or ended at some step. -/
theorem fairRunsGrantAndEndEveryCommand : Obligations.FairRunsGrantAndEndEveryCommand := by
  intro σ n p hσ h0
  by_cases hreset : ∃ k ≥ n, (σ k).move = .rst
  · obtain ⟨k, hk, hm⟩ := hreset
    exact ⟨fun _ => ⟨k, hk, .inl hm⟩, fun _ => ⟨k, hk, .inl hm⟩, fun _ => ⟨k, hk, .inl hm⟩⟩
  push Not at hreset
  refine ⟨fun hp => ?_, fun hp => ?_, fun hb => ?_⟩
  · obtain ⟨k, hk, hsame, hch, hmoved⟩ := hσ.port_moves h0 hreset (p := p) le_rfl (by simp [hp])
    cases hmoved with
    | kept h => exact absurd (h.trans hsame) hch
    | arbGranted hs hu hl => exact ⟨k, hk, .inr ⟨hs, hu, hl⟩⟩
    | psqGranted hs | ended hs => simp [hsame, hp] at hs
  · obtain ⟨k, hk, hsame, hch, hmoved⟩ := hσ.port_moves h0 hreset (p := p) le_rfl (by simp [hp])
    cases hmoved with
    | kept h => exact absurd (h.trans hsame) hch
    | psqGranted hs hu ho => exact ⟨k, hk, .inr ⟨hs, hu, ho⟩⟩
    | arbGranted hs | ended hs => simp [hsame, hp] at hs
  · obtain ⟨k, hk, hend⟩ := hσ.busy_ends h0 hreset (p := p) le_rfl (((hσ.seqInv h0 n).port p).busy.mp hb)
    exact ⟨k, hk, .inr hend⟩

end Sys2Proof.Machine
end

section
/-! PROOFS. Family 20, memory: a whole `REL` at count 1 (O58). One rule for each kind of move of the run
(`ReleaseRun.arb`, `.psqStart`, `.down`, `.time`); then the three parts of its schedule: the arbiter's own steps up to
its request, the power-down the sequencer runs for it, and the rest of the listing with the switch to the ring
oscillator. -/

namespace Sys2Proof.Machine

/-! ### The moves of a `REL` (rules R54, R97, R151) -/

/-- A step of `REL` does not touch the board selects. -/
theorem State.relStep_sel {s u : State} {p : Port} (h : s.relStep p = .ok u) : u.sel0 = s.sel0 ∧ u.sel1 = s.sel1 := by
  obtain hc | hc := State.relStep_cases h
  · cases hc <;> simp
  · obtain ⟨-, -, -, hsel⟩ := State.switchStep_shared hc
    exact hsel

/-- A step of the power-down for the arbiter leaves the ports alone. -/
theorem DownStep.port_eq {s u : State} (h : DownStep s u) (ho : s.psq.owner = .arb) (r : Port) :
    u.port r = s.port r := by
  cases h
  case D6 hl hend =>
    cases hend with
    | port hp => simp [ho] at hp
    | arb => cases r <;> rfl
  all_goals simp

/-- `n` steps lead from `s` to `t`, and all the while port `p` holds the lock with its `REL` latched; ports and board
selects are as they were. -/
structure ReleaseRun (s : State) (p : Port) (n : Nat) (t : State) : Prop where
  run : ∀ k, runFor (k + n) s = runFor k t
  lock : t.clk.lock = .held p
  latched : decode (t.port p).cmdLatch = .ok .rel
  port : ∀ r, t.port r = s.port r
  sel0 : t.sel0 = s.sel0
  sel1 : t.sel1 = s.sel1

/-- The run of no step. -/
theorem ReleaseRun.refl {s : State} {p : Port} (hl : s.clk.lock = .held p)
    (hi : decode (s.port p).cmdLatch = .ok .rel) : ReleaseRun s p 0 s := ⟨fun _ => rfl, hl, hi, fun _ => rfl, rfl, rfl⟩

/-- One run after another. -/
theorem ReleaseRun.trans {s t u : State} {p : Port} {n m : Nat} (h : ReleaseRun s p n t) (h' : ReleaseRun t p m u) :
    ReleaseRun s p (m + n) u where
  run k := by rw [← Nat.add_assoc, h.run, h'.run]
  lock := h'.lock
  latched := h'.latched
  port r := (h'.port r).trans (h.port r)
  sel0 := h'.sel0.trans h.sel0
  sel1 := h'.sel1.trans h.sel1

section
variable {s t u : State} {p : Port} {n : Nat} (h : ReleaseRun s p n t)
include h

/-- A step that leaves lock, ports and selects alone goes on with the run. -/
theorem ReleaseRun.step (hstep : step t = .next u.advance) (hl : u.clk.lock = t.clk.lock)
    (hport : ∀ r, u.port r = t.port r) (h0 : u.sel0 = t.sel0) (h1 : u.sel1 = t.sel1) :
    ReleaseRun s p (n + 1) u.advance where
  run k := by rw [← Nat.add_assoc, Nat.add_right_comm, h.run, runFor_succ hstep]
  lock := hl.trans h.lock
  latched := by rw [State.advance_port, hport]; exact h.latched
  port r := by rw [State.advance_port, hport, h.port]
  sel0 := h0.trans h.sel0
  sel1 := h1.trans h.sel1

/-- The arbiter takes a step of the listing. -/
theorem ReleaseRun.arb (hm : t.arbMoves = true) (hr : t.arbReady = true) (hs : t.arb.seq ≠ .idle)
    (f : State → State) (hu : t.relStep p = .ok (f t)) (hgo : (f t).arb.seq ≠ .idle) :
    ReleaseRun s p (n + 1) (f t).advance := by
  have hstep : Machine.step t = .next (f t).advance := by
    rw [step_eq_exec h.latched (engineTurn_arb hm h.lock) (State.execPort_arb hm h.lock),
      exec_arbTurn (i := .rel) rfl hm h.lock hr hs, arbListing, hu, answer_ok]
  obtain ⟨h0, h1⟩ := State.relStep_sel hu
  have harbStep : ArbStep t p (f t) := .rel hu
  obtain ⟨-, hidle, -⟩ | ⟨hl, hp, -⟩ := harbStep.ends
  · exact absurd hidle hgo
  refine h.step hstep hl (fun r => ?_) h0 h1
  obtain rfl | rfl := eq_or_eq_otherPort p r
  · exact hp
  · exact harbStep.kept.other

/-- The sequencer starts the power-down the arbiter asks for. -/
theorem ReleaseRun.psqStart (hm : t.move = .psq .arb) (ho : t.psq.owner = .none) (hs : t.psq.seq = .idle)
    (hr : t.psq.reqArb = true) (hd : t.psq.arbReleased = false) :
    ReleaseRun s p (n + 1) (t.psqStart .arb .D1).advance := by
  obtain ⟨hclk, -, -, h0, h1, -⟩ := t.psqStart_kept .arb .D1
  refine h.step ?_ (by rw [hclk]) (fun r => by cases r <;> rfl) h0 h1
  rw [step_eq_exec h.latched (engineTurn_psq_request hm ho hs hr hd h.lock)
    (State.execPort_psq_request hm ho h.lock)]
  exact (execRel_psq (State.psqMoves_iff.mpr ⟨_, hm⟩)).trans ((psqCommand_start hs).trans
    (by rw [State.psqStartArb_eq hr hd]))

/-- The sequencer takes a step of it. -/
theorem ReleaseRun.down (hm : t.psqMoves = true) (ho : t.psq.owner = .arb)
    (hr : t.psqReady = true) (hs : t.psq.seq ≠ .idle) (f : State → State) (hu : t.powerDownStep = .ok (f t)) :
    ReleaseRun s p (n + 1) (f t).advance := by
  obtain ⟨hclk, -, h0, h1, -⟩ := State.powerDownStep_kept hu
  refine h.step ?_ (by rw [hclk]) ((State.powerDownStep_cases hu).port_eq ho) h0 h1
  rw [step_eq_exec h.latched (engineTurn_psq_arb hm ho h.lock) (State.execPort_psq_arb hm ho h.lock)]
  exact (execRel_psq hm).trans (by rw [psqCommand_step hr hs, hu, answer_ok])

/-- Time passes. -/
theorem ReleaseRun.time {d : Nat} (hm : t.move = .time d) : ReleaseRun s p (n + 1) (t.passTime d).advance :=
  h.step (by simp [Machine.step, hm]) rfl (by simp) rfl rfl

end

/-! ### The three parts of the run -/

/-- What the power-down sequence reports (rule R153). -/
def powerDownEvents : List Event :=
  [.rsUpdate .MUTE 1, .rsUpdate .PDN_DONE_INH 1, .rsUpdate .PDN_OUT 1, .wait .T_PDN_SETTLE, .rsUpdate .PDN_PATH 1,
    .rsUpdate .PDN_DONE_INH 0]

/-- What the switch to the ring oscillator reports (rule R111). -/
def ringEvents : List Event :=
  [.rsUpdate .MCLK_SRC_SEL 2, .rsUpdate .MCLK_INT 0, .wait .T_SRC_SETTLE, .rsUpdate .XTAL_PDN 1, .rsUpdate .PLL_PDN 1]

/-- L0, L1 and the request of L2, at count 1. -/
theorem releaseRun_ask {s : State} {p : Port} (hl : s.clk.lock = .held p) (hi : decode (s.port p).cmdLatch = .ok .rel)
    (hs : s.arb.seq = .L0) (hc : s.clk.reqCnt = 1) (hr : s.psq.reqArb = false) {rest : List Move}
    (hm : s.sched = .arb p :: .arb p :: .arb p :: rest) :
    ∃ t, ReleaseRun s p 3 t ∧ t.sched = rest ∧ t.clk = s.clk ∧ t.arb = { s.arb with seq := .L2 } ∧
      t.psq = { s.psq with reqArb := true } ∧ t.ctl = s.ctl ∧ t.events = s.events ∧ t.now = s.now := by
  have hL0 := (ReleaseRun.refl hl hi).arb (by simp [State.arbMoves, State.move, hm])
    (by simp [State.arbReady, hs, arbWaitBefore]) (by simp [hs]) (·.arbGoto .L1)
    (by simp [State.relStep, hs, hc]) (by simp)
  have hL1 := hL0.arb (by simp [State.arbMoves, State.move, hm]) rfl (by simp) (·.arbGoto .L2)
    (by simp [State.relStep, hc]) (by simp)
  have hL2 := hL1.arb (by simp [State.arbMoves, State.move, hm]) rfl (by simp)
    (fun t => { t with psq := { t.psq with reqArb := true } }) (by simp [State.relStep, State.relHold, hr]) (by simp)
  exact ⟨_, hL2, by simp [hm]⟩

/-- The power-down the sequencer runs for the arbiter, from its start to the release of L2. -/
theorem releaseRun_powerDown {s : State} {p : Port} (hl : s.clk.lock = .held p)
    (hi : decode (s.port p).cmdLatch = .ok .rel) (hX : s.arb.seq ≠ .X4) (ho : s.psq.owner = .none)
    (hs : s.psq.seq = .idle) (hr : s.psq.reqArb = true) (hd : s.psq.arbReleased = false) {rest : List Move}
    (hm : s.sched = .psq .arb :: .psq .arb :: .psq .arb :: .psq .arb :: .psq .arb ::
      .time (duration .T_PDN_SETTLE) :: .psq .arb :: .psq .arb :: rest) :
    ∃ t, ReleaseRun s p 8 t ∧ t.sched = rest ∧ t.clk = s.clk ∧ t.arb = s.arb ∧
      t.psq = { s.psq with seq := .idle, owner := .none, arbReleased := true, wt := s.now } ∧
      t.ctl = { s.ctl with mute := 1, pdnDoneInh := 0, pdnOut := 1, pdnPath := 1 } ∧
      t.events = s.events ++ powerDownEvents := by
  have hsched : (s.psqStart .arb .D1).sched = s.sched := rfl
  obtain ⟨hclk, harb, hctl, -, -, hnow, -, hevents, hpsq⟩ := s.psqStart_kept .arb .D1
  have hstart := (ReleaseRun.refl hl hi).psqStart (by simp [State.move, hm]) ho hs hr hd
  have hD1 := hstart.down (by simp [State.psqMoves, State.move, hm, hsched]) (by simp [hpsq])
    (by simp [State.psqReady, hpsq, psqWaitBefore]) (by simp [hpsq]) (fun t => (t.rsUpdate .MUTE 1).psqGoto .D2)
    (by simp [State.powerDownStep, hpsq])
  have hD2 := hD1.down (by simp [State.psqMoves, State.move, hm, hsched]) (by simp [hpsq])
    (by simp [State.psqReady, psqWaitBefore]) (by simp) (fun t => (t.rsUpdate .PDN_DONE_INH 1).psqGoto .D3)
    (by simp [State.powerDownStep])
  have hD3 := hD2.down (by simp [State.psqMoves, State.move, hm, hsched]) (by simp [hpsq])
    (by simp [State.psqReady, psqWaitBefore]) (by simp) (fun t => (t.rsUpdate .PDN_OUT 1).psqGoto .D4)
    (by simp [State.powerDownStep])
  have hD4 := hD3.down (by simp [State.psqMoves, State.move, hm, hsched]) (by simp [hpsq])
    (by simp [State.psqReady, psqWaitBefore]) (by simp) (fun t => (t.psqWait .T_PDN_SETTLE).psqGoto .D5)
    (by simp [State.powerDownStep])
  have htime := hD4.time (d := duration .T_PDN_SETTLE) (by simp [State.move, hm, hsched])
  have hD5 := htime.down (by simp [State.psqMoves, State.move, hm, hsched]) (by simp [hpsq])
    (by simp [State.psqReady, psqWaitBefore, waitOver_iff, State.timeStep, harb, hX]) (by simp)
    (fun t => (t.rsUpdate .PDN_PATH 1).psqGoto .D6) (by simp [State.powerDownStep])
  have hD6 := hD5.down (by simp [State.psqMoves, State.move, hm, hsched]) (by simp [hpsq])
    (by simp [State.psqReady, psqWaitBefore]) (by simp)
    (fun t => { t.rsUpdate .PDN_DONE_INH 0 with
      psq := { t.psq with seq := .idle, owner := .none, arbReleased := true } })
    (by simp [State.powerDownStep, State.psqEnd, hpsq])
  refine ⟨_, hD6, ?_, ?_, ?_, ?_, ?_, ?_⟩
  · simp [hm, hsched]
  · simp [hclk]
  · simp [harb]
  · simp [hpsq, hnow]
  · simp [hctl, Ctl.set]
  · simp [hevents, powerDownEvents]

/-- The release of L2, the count to 0 and the whole switch to the ring oscillator, up to the call's return to L5. -/
theorem releaseRun_switch {s : State} {p : Port} (hl : s.clk.lock = .held p)
    (hi : decode (s.port p).cmdLatch = .ok .rel) (hs : s.arb.seq = .L2) (hr : s.psq.reqArb = true)
    (hd : s.psq.arbReleased = true) (hsrc : s.clk.clkSrc ≠ .ringOscillator) {rest : List Move}
    (hm : s.sched = .arb p :: .arb p :: .arb p :: .arb p :: .arb p :: .arb p :: .arb p ::
      .time (duration .T_SRC_SETTLE) :: .arb p :: .arb p :: rest) :
    ∃ t, ReleaseRun s p 10 t ∧ t.sched = rest ∧ t.clk = { s.clk with clkSrc := .ringOscillator, reqCnt := 0 } ∧
      t.arb.seq = .L5 ∧ t.psq = { s.psq with reqArb := false, arbReleased := false } ∧
      t.ctl = { s.ctl with mclkSrcSel := 2, mclkInt := 0, xtalPdn := 1, pllPdn := 1 } ∧
      t.events = s.events ++ ringEvents := by
  have hcode : ¬ (2#2 = sourceCode s.clk.clkSrc) := by
    revert hsrc
    cases s.clk.clkSrc <;> decide
  have hL2 := (ReleaseRun.refl hl hi).arb (by simp [State.arbMoves, State.move, hm])
    (by simp [State.arbReady, hs, arbWaitBefore]) (by simp [hs])
    (fun t => ({ t with psq := { t.psq with reqArb := false, arbReleased := false } }).arbGoto .L3)
    (by simp [State.relStep, State.relHold, hs, hr, hd]) (by simp)
  have hL3 := hL2.arb (by simp [State.arbMoves, State.move, hm]) rfl (by simp)
    (fun t => ({ t with clk := { t.clk with reqCnt := 0 } }).arbGoto .L4) (by simp [State.relStep]) (by simp)
  have hL4 := hL3.arb (by simp [State.arbMoves, State.move, hm]) rfl (by simp) (·.callSwitch 2 .L5)
    (by simp [State.relStep]) (by simp)
  have hS0 := hL4.arb (by simp [State.arbMoves, State.move, hm]) rfl (by simp) (·.arbGoto .S1)
    (by simp [State.relStep, State.switchStep, hcode]) (by simp)
  have hS1 := hS0.arb (by simp [State.arbMoves, State.move, hm]) rfl (by simp) (·.arbGoto .O1)
    (by simp [State.relStep, State.switchStep]) (by simp)
  have hO1 := hS1.arb (by simp [State.arbMoves, State.move, hm]) rfl (by simp)
    (fun t => (t.programMux 2 0).arbGoto .O2) (by simp [State.relStep, State.switchStep]) (by simp)
  have hO2 := hO1.arb (by simp [State.arbMoves, State.move, hm, State.programMux]) rfl (by simp)
    (fun t => (t.arbWait .T_SRC_SETTLE).arbGoto .O3) (by simp [State.relStep, State.switchStep]) (by simp)
  have htime := hO2.time (d := duration .T_SRC_SETTLE) (by simp [State.move, hm, State.programMux])
  have hO3 := htime.arb (by simp [State.arbMoves, State.move, hm, State.programMux])
    (by simp [State.arbReady, arbWaitBefore, waitOver_iff, State.timeStep]) (by simp)
    (fun t => ((t.rsUpdate .XTAL_PDN 1).rsUpdate .PLL_PDN 1).arbGoto .O4) (by simp [State.relStep, State.switchStep])
    (by simp)
  have hO4 := hO3.arb (by simp [State.arbMoves, State.move, hm, State.programMux])
    (by simp [State.arbReady, arbWaitBefore]) (by simp)
    (·.commitSource .ringOscillator) (by simp [State.relStep, State.switchStep])
    (by simp [State.commitSource, State.switchReturn, State.programMux])
  refine ⟨_, hO4, ?_, ?_, ?_, ?_, ?_, ?_⟩
  · simp [hm, State.commitSource, State.switchReturn, State.programMux]
  · simp [State.commitSource, State.switchReturn, State.programMux]
  · simp [State.commitSource, State.switchReturn, State.programMux]
  · simp [State.commitSource, State.switchReturn, State.programMux]
  · simp [State.commitSource, State.switchReturn, State.programMux, Ctl.set]
  · simp [State.commitSource, State.switchReturn, State.programMux, ringEvents]

/-! ### The whole run -/

/-- The schedule of the run: the arbiter up to its request, the sequencer with its settle time, the arbiter with the
settle time of the switch. -/
def relMoves (p : Port) : List Move :=
  List.replicate 4 (Move.arb p) ++ List.replicate 5 (Move.psq .arb) ++ [Move.time (duration .T_PDN_SETTLE)] ++
    List.replicate 2 (Move.psq .arb) ++ List.replicate 7 (Move.arb p) ++ [Move.time (duration .T_SRC_SETTLE)] ++
    List.replicate 3 (Move.arb p)

/-- The start of a waiting `REL`: the lock is taken, L0 is next (rule R81). -/
theorem step_relStart {s : State} {p : Port} (hm : s.move = .arb p) (hl : s.clk.lock = .free) (hs : s.arb.seq = .idle)
    (hp : (s.port p).pend = .arbWait) (hi : decode (s.port p).cmdLatch = .ok .rel) :
    step s = .next (s.arbStart p .L0).advance := by
  have hport := State.execPort_arb_free hm hl
  have hr : s.arbReady = true := State.arbReady_of_waits (by simp [hs, arbWaitBefore])
  rw [step_eq_exec hi (engineTurn_arb_free hm hl hs hp) hport,
    exec_arbCommand (i := .rel) rfl (State.arbMoves_iff.mpr ⟨p, hm⟩)]
  simp [arbCommand, hr, hs, hport, firstLabel]

/-- What the start makes of the ports. -/
theorem State.arbStart_port {s : State} {p : Port} (l : ArbLabel) (hl : s.clk.lock = .free)
    (hp : (s.port p).pend = .arbWait) :
    (s.arbStart p l).port p = { s.port p with pend := .arbRun } ∧
      (s.arbStart p l).port (otherPort p) = s.port (otherPort p) := by
  rw [State.arbStart_eq l hl hp]
  cases p <;> exact ⟨rfl, rfl⟩

/-- From just after the start to the end of the command: its three parts, then L5. -/
theorem run_started_rel {s : State} {p : Port} (hl : s.clk.lock = .held p)
    (hi : decode (s.port p).cmdLatch = .ok .rel) (hs : s.arb.seq = .L0) (hc : s.clk.reqCnt = 1)
    (hsrc : s.clk.clkSrc ≠ .ringOscillator) (hseq : s.psq.seq = .idle) (ho : s.psq.owner = .none)
    (hr : s.psq.reqArb = false) (hd : s.psq.arbReleased = false) (hm : s.sched = (relMoves p).tail) :
    ∃ t : State, runFor 22 s = .next (t.finish .arb p).advance ∧
      t.events = s.events ++ powerDownEvents ++ ringEvents ∧
      t.clk = { s.clk with clkSrc := .ringOscillator, reqCnt := 0 } ∧
      t.ctl = { s.ctl with mute := 1, pdnDoneInh := 0, pdnOut := 1, pdnPath := 1, mclkSrcSel := 2, mclkInt := 0,
                           xtalPdn := 1, pllPdn := 1 } ∧
      (t.psq.seq = .idle ∧ t.psq.owner = .none ∧ t.psq.reqArb = false ∧ t.psq.arbReleased = false) ∧
      t.sel0 = s.sel0 ∧ t.sel1 = s.sel1 ∧ ∀ r, t.port r = s.port r := by
  obtain ⟨a, ha, hma, hclka, harba, hpsqa, hctla, heva, -⟩ := releaseRun_ask hl hi hs hc hr hm
  obtain ⟨b, hb, hmb, hclkb, harbb, hpsqb, hctlb, hevb⟩ := releaseRun_powerDown ha.lock ha.latched (by simp [harba])
    (by simp [hpsqa, ho]) (by simp [hpsqa, hseq]) (by simp [hpsqa]) (by simp [hpsqa, hd]) hma
  obtain ⟨c, hrc, hmc, hclkc, hseqc, hpsqc, hctlc, hevc⟩ := releaseRun_switch hb.lock hb.latched
    (by simp [harbb, harba]) (by simp [hpsqb, hpsqa]) (by simp [hpsqb]) (by simpa [hclkb, hclka] using hsrc) hmb
  have hrun := (ha.trans hb).trans hrc
  have hmove : c.arbMoves = true := by simp [State.arbMoves, State.move, hmc]
  have hlast : step c = .next (c.finish .arb p).advance := by
    rw [step_eq_exec hrun.latched (engineTurn_arb hmove hrun.lock) (State.execPort_arb hmove hrun.lock)]
    exact exec_rel_eq (l := .L5) (by decide) (fun hL5 => by simp [State.relStep, hL5]) ⟨hmove, hrun.lock, hseqc⟩
  refine ⟨c, (hrun.run 1).trans (runFor_succ hlast), ?_, ?_, ?_, ?_, hrun.sel0, hrun.sel1, hrun.port⟩
  · simp [hevc, hevb, heva]
  · simp [hclkc, hclkb, hclka]
  · simp [hctlc, hctlb, hctla]
  · simp [hpsqc, hpsqb]

/-- The whole run of a waiting `REL` from a state with the schedule of the run. -/
theorem run_waiting_rel {s : State} {p : Port} (hl : s.clk.lock = .free) (hs : s.arb.seq = .idle)
    (hp : (s.port p).pend = .arbWait) (hi : decode (s.port p).cmdLatch = .ok .rel) (hc : s.clk.reqCnt = 1)
    (hsrc : s.clk.clkSrc ≠ .ringOscillator) (hseq : s.psq.seq = .idle) (ho : s.psq.owner = .none)
    (hr : s.psq.reqArb = false) (hd : s.psq.arbReleased = false) (hm : s.sched = relMoves p) :
    ∃ t, runFor 23 s = .next t ∧
      t.events = s.events ++ powerDownEvents ++ ringEvents ++ [Event.complete p 0] ∧
      t.clk = { s.clk with clkSrc := .ringOscillator, reqCnt := 0 } ∧
      t.ctl = { s.ctl with mute := 1, pdnDoneInh := 0, pdnOut := 1, pdnPath := 1, mclkSrcSel := 2, mclkInt := 0,
                           xtalPdn := 1, pllPdn := 1 } ∧
      t.arb.seq = .idle ∧ t.psq.seq = .idle ∧ t.psq.owner = .none ∧ t.psq.reqArb = false ∧
      t.psq.arbReleased = false ∧ t.sel0 = s.sel0 ∧ t.sel1 = s.sel1 ∧
      t.port p = { s.port p with status := { (s.port p).status with busy := false, done := true }, pend := .none } ∧
      t.port (otherPort p) = s.port (otherPort p) := by
  obtain ⟨hown, hother⟩ := State.arbStart_port .L0 hl hp
  have heq := State.arbStart_eq .L0 hl hp
  have hstart := step_relStart (by simp [State.move, hm, relMoves]) hl hs hp hi
  obtain ⟨u, hu⟩ : ∃ u, u = (s.arbStart p .L0).advance := ⟨_, rfl⟩
  obtain ⟨t, hrun, hev, hclk, hctl, ⟨hts, hto, htr, htd⟩, h0, h1, hport⟩ := run_started_rel (s := u) (p := p)
    (by simp [hu, heq]) (by simp [hu, hown, hi]) (by simp [hu, heq]) (by simp [hu, heq, hc]) (by simp [hu, heq, hsrc])
    (by simp [hu, heq, hseq]) (by simp [hu, heq, ho]) (by simp [hu, heq, hr]) (by simp [hu, heq, hd])
    (by simp [hu, heq, hm])
  refine ⟨(t.finish .arb p).advance, (runFor_succ (hu ▸ hstart)).trans hrun,
    ?_, ?_, ?_, ?_, ?_, ?_, ?_, ?_, ?_, ?_, ?_, ?_⟩
  · simp [hev, hu, heq]
  · simp [hclk, hu, heq, hl]
  · simp [hctl, hu, heq]
  · simp
  · simpa using hts
  · simpa using hto
  · simpa using htr
  · simpa using htd
  · simp [h0, hu, heq]
  · simp [h1, hu, heq]
  · simp [hport, hu, hown, Status.ended]
  · simp [hport, hu, hother]

/-- Settles O58: the schedule is that of the run, and the schedule aside the state is as given. -/
theorem relRunToZero : Obligations.RelRunToZero := by
  intro s p hl hs hp hi hc hsrc hseq ho hr hd
  have hport : ∀ r, State.port { s with sched := relMoves p } r = s.port r := fun r => by cases r <;> rfl
  have hrun := run_waiting_rel (s := { s with sched := relMoves p }) (p := p) hl hs (by rw [hport, hp])
    (by rw [hport, hi]) hc hsrc hseq ho hr hd rfl
  rw [hport, hport] at hrun
  simpa [powerDownEvents, ringEvents, relMoves] using hrun

end Sys2Proof.Machine
end

section
/-! PROOFS. Family 30, encoding: decoder and encoder. Words and fields are taken as numbers (`toNat_encode`), so that
a command is read back from its word by linear arithmetic (O1). `ReadsAs` is what the decoder does with a word of a
legal opcode: which bits it tests, that these are the spec's reserved bits, and that a word that passes is the word of
the command; from it the converse (O2) and the routing of every word (O3). Then nine words (O4). -/

namespace Sys2Proof

/-! ### Fields as numbers (rules R6, R69) -/

/-- The opcode of a word as a number. -/
theorem toNat_opcode (w : Word) : (field w 28 4).toNat = w.toNat / 2 ^ 28 := by
  have hw := w.isLt
  rw [toNat_field]
  omega

/-- A field is zero when its number is. -/
theorem field_eq_zero_iff_toNat {w : Word} {lo n : Nat} : field w lo n = 0 ↔ w.toNat / 2 ^ lo % 2 ^ n = 0 := by
  simp [← BitVec.toNat_inj, toNat_field]

/-- A bit of a word is its field of one bit. -/
theorem getLsbD_eq_field (w : Word) (i : Nat) : w.getLsbD i = decide (field w i 1 = 1) := by
  simp [getLsbD_eq_decide, ← BitVec.toNat_inj, toNat_field]

/-- Two parts side by side are zero when both are. -/
theorem append_eq_zero_iff {m n : Nat} {a : BitVec m} {b : BitVec n} : a ++ b = 0 ↔ a = 0 ∧ b = 0 := by
  simp [← BitVec.toNat_inj]

/-! ### The words of the commands (rules R62 to R68) -/

/-- The number in bits 31:28 of a command's word. -/
def Instr.opcode : Instr → Nat
  | .nop => 0x0
  | .acq => 0x1
  | .rel => 0x2
  | .sws _ => 0x3
  | .pdn => 0x4
  | .pup => 0x5
  | .sfmt _ _ => 0x6
  | .sclk => 0x7
  | .fmt _ _ _ => 0x8
  | .divl _ _ _ _ => 0x9
  | .cfg _ _ => 0xA

/-- The number in bits 27:0 of a command's word. -/
def Instr.operands : Instr → Nat
  | .sws tgt => tgt.toNat
  | .sfmt ffmt mstr => ffmt.toNat * 2 + mstr.toNat
  | .fmt width chans dsd => width.toNat * 2 ^ 6 + chans.toNat * 2 ^ 2 + dsd.toNat * 2
  | .divl bcw chans refx ref => bcw.toNat * 2 ^ 6 + chans.toNat * 2 ^ 2 + refx.toNat * 2 + ref.toNat
  | .cfg bias bypass => bias.toNat * 2 + bypass.toNat
  | _ => 0

/-- The word of a command as a number: its opcode above its operands. -/
theorem toNat_encode (i : Instr) : (encode i).toNat = i.opcode * 2 ^ 28 + i.operands := by
  cases i <;> simp only [encode, toNat_append_add, Instr.opcode, Instr.operands, BitVec.toNat_ofNat] <;> omega

/-- The operands leave the opcode alone. -/
theorem Instr.operands_lt (i : Instr) : i.operands < 2 ^ 28 := by
  cases i <;> simp only [Instr.operands] <;> omega

/-- The opcode of a command's word. -/
theorem opcode_encode (i : Instr) : (encode i).toNat / 2 ^ 28 = i.opcode := by
  have hlt := i.operands_lt
  rw [toNat_encode]
  omega

/-- A word with the number of a command's word is that word. -/
theorem encode_eq_of_toNat {i : Instr} {w : Word} (h : i.opcode * 2 ^ 28 + i.operands = w.toNat) : encode i = w :=
  BitVec.eq_of_toNat_eq (by rw [toNat_encode, h])

/-! ### The six formats: what the decoder tests and answers (rules R63 to R68, R71) -/

/-- The commands of format Z, which have no field (rule R63). -/
def bareCommands : List Instr := [.nop, .acq, .rel, .pdn, .pup, .sclk]

section
variable {w : Word}

/-- Format Z (rule R63): the decoder tests all of bits 27:0. -/
theorem decode_bare {i : Instr} (hi : i ∈ bareCommands) (h : w.toNat / 2 ^ 28 = i.opcode) :
    decode w = whenReservedZero (field w 0 28) i := by
  simp only [bareCommands, List.mem_cons, List.not_mem_nil, or_false] at hi
  obtain rfl | rfl | rfl | rfl | rfl | rfl := hi <;> simp only [decode, toNat_opcode, h, Instr.opcode]

/-- Format S (rule R64): the bits the decoder tests and the fields it reads. -/
theorem decode_sws (h : w.toNat / 2 ^ 28 = 0x3) : decode w = whenReservedZero (field w 2 26) (.sws (field w 0 2)) := by
  simp only [decode, toNat_opcode, h]

/-- Format I (rule R65): the bits the decoder tests and the fields it reads. -/
theorem decode_sfmt (h : w.toNat / 2 ^ 28 = 0x6) :
    decode w = whenReservedZero (field w 4 24) (.sfmt (field w 1 3) (field w 0 1)) := by
  simp only [decode, toNat_opcode, h]

/-- Format F (rule R66): the bits the decoder tests and the fields it reads. -/
theorem decode_fmt (h : w.toNat / 2 ^ 28 = 0x8) :
    decode w = whenReservedZero (field w 12 16 ++ field w 0 1) (.fmt (field w 6 6) (field w 2 4) (field w 1 1)) := by
  simp only [decode, toNat_opcode, h]

/-- Format L (rule R67): the bits the decoder tests and the fields it reads. -/
theorem decode_divl (h : w.toNat / 2 ^ 28 = 0x9) :
    decode w = whenReservedZero (field w 12 16 ++ (~~~(field w 1 1) &&& field w 0 1))
      (.divl (field w 6 6) (field w 2 4) (field w 1 1) (field w 0 1)) := by
  simp only [decode, toNat_opcode, h]

/-- Format C (rule R68): the bits the decoder tests and the fields it reads. -/
theorem decode_cfg (h : w.toNat / 2 ^ 28 = 0xA) :
    decode w = whenReservedZero (field w 3 25) (.cfg (field w 1 2) (field w 0 1)) := by
  simp only [decode, toNat_opcode, h]

/-- The opcodes 0xB to 0xF are no command's. -/
theorem decode_illegalOpcode (h : 0xA < w.toNat / 2 ^ 28) : decode w = .error .illegalOpcode := by
  unfold decode
  rw [toNat_opcode]
  split
  case h_12 => rfl
  all_goals omega

/-- An opcode up to 0xA is that of one of the six formats. -/
theorem opcode_cases (h : w.toNat / 2 ^ 28 ≤ 0xA) :
    (∃ i ∈ bareCommands, w.toNat / 2 ^ 28 = i.opcode) ∨ w.toNat / 2 ^ 28 = 0x3 ∨ w.toNat / 2 ^ 28 = 0x6 ∨
      w.toNat / 2 ^ 28 = 0x8 ∨ w.toNat / 2 ^ 28 = 0x9 ∨ w.toNat / 2 ^ 28 = 0xA := by
  simp only [bareCommands, List.mem_cons, List.not_mem_nil, or_false, exists_eq_or_imp, exists_eq_left, Instr.opcode]
  omega

end

/-- The condition rule R67 puts between `REFX` and `REF`, as the decoder tests it. -/
theorem refTest_eq_zero_iff (refx ref : Bit) : ~~~refx &&& ref = 0 ↔ ¬ (refx = 0 ∧ ref = 1) := by
  revert refx ref
  decide

/-- The same condition is what makes a `DIVL` well formed. -/
theorem wf_divl_iff {bcw : BitVec 6} {chans : BitVec 4} {refx ref : Bit} :
    (Instr.divl bcw chans refx ref).wf = true ↔ ¬ (refx = 0 ∧ ref = 1) := by
  simp [Instr.wf, ← not_and_or]

/-! ### A command is read back from its word (rules R69, R70) -/

/-- Settles O1, format by format: the reserved bits of the word are zero and each field is the operand. -/
theorem decodeOfEncodeIsTheCommand : Obligations.DecodeOfEncodeIsTheCommand := by
  intro i hwf
  have hop := opcode_encode i
  have hnum := toNat_encode i
  cases i with
  | nop | acq | rel | pdn | pup | sclk => rfl
  | sws tgt =>
    simp only [Instr.opcode, Instr.operands] at hop hnum
    have hres : field (encode (.sws tgt)) 2 26 = 0 := field_eq_zero_iff_toNat.mpr (by omega)
    have htgt : field (encode (.sws tgt)) 0 2 = tgt := extractLsb'_eq_of_toNat (by omega)
    rw [decode_sws hop, htgt]
    exact whenReservedZero_ok.mpr ⟨hres, rfl⟩
  | sfmt ffmt mstr =>
    simp only [Instr.opcode, Instr.operands] at hop hnum
    have hres : field (encode (.sfmt ffmt mstr)) 4 24 = 0 := field_eq_zero_iff_toNat.mpr (by omega)
    have hffmt : field (encode (.sfmt ffmt mstr)) 1 3 = ffmt := extractLsb'_eq_of_toNat (by omega)
    have hmstr : field (encode (.sfmt ffmt mstr)) 0 1 = mstr := extractLsb'_eq_of_toNat (by omega)
    rw [decode_sfmt hop, hffmt, hmstr]
    exact whenReservedZero_ok.mpr ⟨hres, rfl⟩
  | fmt width chans dsd =>
    simp only [Instr.opcode, Instr.operands] at hop hnum
    have hhigh : field (encode (.fmt width chans dsd)) 12 16 = 0 := field_eq_zero_iff_toNat.mpr (by omega)
    have hlow : field (encode (.fmt width chans dsd)) 0 1 = 0 := field_eq_zero_iff_toNat.mpr (by omega)
    have hwidth : field (encode (.fmt width chans dsd)) 6 6 = width := extractLsb'_eq_of_toNat (by omega)
    have hchans : field (encode (.fmt width chans dsd)) 2 4 = chans := extractLsb'_eq_of_toNat (by omega)
    have hdsd : field (encode (.fmt width chans dsd)) 1 1 = dsd := extractLsb'_eq_of_toNat (by omega)
    rw [decode_fmt hop, hwidth, hchans, hdsd]
    exact whenReservedZero_ok.mpr ⟨append_eq_zero_iff.mpr ⟨hhigh, hlow⟩, rfl⟩
  | divl bcw chans refx ref =>
    simp only [Instr.opcode, Instr.operands] at hop hnum
    have hhigh : field (encode (.divl bcw chans refx ref)) 12 16 = 0 := field_eq_zero_iff_toNat.mpr (by omega)
    have hbcw : field (encode (.divl bcw chans refx ref)) 6 6 = bcw := extractLsb'_eq_of_toNat (by omega)
    have hchans : field (encode (.divl bcw chans refx ref)) 2 4 = chans := extractLsb'_eq_of_toNat (by omega)
    have hrefx : field (encode (.divl bcw chans refx ref)) 1 1 = refx := extractLsb'_eq_of_toNat (by omega)
    have href : field (encode (.divl bcw chans refx ref)) 0 1 = ref := extractLsb'_eq_of_toNat (by omega)
    have htest : ~~~refx &&& ref = 0 := (refTest_eq_zero_iff refx ref).mpr (wf_divl_iff.mp hwf)
    rw [decode_divl hop, hbcw, hchans, hrefx, href]
    exact whenReservedZero_ok.mpr ⟨append_eq_zero_iff.mpr ⟨hhigh, htest⟩, rfl⟩
  | cfg bias bypass =>
    simp only [Instr.opcode, Instr.operands] at hop hnum
    have hres : field (encode (.cfg bias bypass)) 3 25 = 0 := field_eq_zero_iff_toNat.mpr (by omega)
    have hbias : field (encode (.cfg bias bypass)) 1 2 = bias := extractLsb'_eq_of_toNat (by omega)
    have hbypass : field (encode (.cfg bias bypass)) 0 1 = bypass := extractLsb'_eq_of_toNat (by omega)
    rw [decode_cfg hop, hbias, hbypass]
    exact whenReservedZero_ok.mpr ⟨hres, rfl⟩

/-! ### Everything the decoder does with a word of a legal opcode (rules R70, R71) -/

/-- The decoder tests the bits `r` of `w` and answers `i`: `r` is what rule R70 calls illegal, and a word that passes
is the word of `i`. -/
structure ReadsAs (w : Word) {n : Nat} (r : BitVec n) (i : Instr) : Prop where
  decode_eq : decode w = whenReservedZero r i
  legal_iff : Machine.legalFields w ↔ r = 0
  word : r = 0 → i.wf = true ∧ encode i = w

/-- In every format but `DIVL` the reserved bits alone decide (rule R70). -/
theorem legalFields_iff_mask {w : Word} {k : Nat} (h : w.toNat / 2 ^ 28 = k) (hk : k ≠ 0x9) :
    Machine.legalFields w ↔ w &&& Machine.reservedMask k = 0 := by
  simp only [Machine.legalFields, h, hk, false_and, not_false_eq_true, and_true]

/-- A format with one reserved field, from bit `lo` up to bit 27. -/
theorem legalFields_iff_field {w : Word} {k lo : Nat} (n : Nat) (h : w.toNat / 2 ^ 28 = k) (hk : k ≠ 0x9)
    (hm : ∀ i < 32, (Machine.reservedMask k).getLsbD i = decide (lo ≤ i ∧ i < lo + n)) (hn : lo + n ≤ 32) :
    Machine.legalFields w ↔ field w lo n = 0 :=
  (legalFields_iff_mask h hk).trans (and_mask_eq_zero_iff w _ lo n hm hn)

/-! Each format tests what the spec calls reserved and drops no bit of a legal word. -/

section
variable {w : Word}

theorem readsAs_bare {i : Instr} (hi : i ∈ bareCommands) (h : w.toNat / 2 ^ 28 = i.opcode) :
    ReadsAs w (field w 0 28) i := by
  have hbare : ∀ i ∈ bareCommands, i.wf = true ∧ i.operands = 0 ∧ i.opcode ≠ 0x9 ∧
      Machine.reservedMask i.opcode = 0x0FFFFFFF := by decide
  obtain ⟨hwf, hoperands, hopcode, hmask⟩ := hbare i hi
  refine ⟨decode_bare hi h, legalFields_iff_field 28 h hopcode (hmask ▸ by decide) (by decide), fun hr => ?_⟩
  have hzero := field_eq_zero_iff_toNat.mp hr
  exact ⟨hwf, encode_eq_of_toNat (by omega)⟩

theorem readsAs_sws (h : w.toNat / 2 ^ 28 = 0x3) : ReadsAs w (field w 2 26) (.sws (field w 0 2)) := by
  refine ⟨decode_sws h, legalFields_iff_field 26 h (by decide) (by decide) (by decide), fun hr => ⟨rfl, ?_⟩⟩
  have hzero := field_eq_zero_iff_toNat.mp hr
  exact encode_eq_of_toNat (by simp only [Instr.opcode, Instr.operands, toNat_field]; omega)

theorem readsAs_sfmt (h : w.toNat / 2 ^ 28 = 0x6) : ReadsAs w (field w 4 24) (.sfmt (field w 1 3) (field w 0 1)) := by
  refine ⟨decode_sfmt h, legalFields_iff_field 24 h (by decide) (by decide) (by decide), fun hr => ⟨rfl, ?_⟩⟩
  have hzero := field_eq_zero_iff_toNat.mp hr
  exact encode_eq_of_toNat (by simp only [Instr.opcode, Instr.operands, toNat_field]; omega)

theorem readsAs_fmt (h : w.toNat / 2 ^ 28 = 0x8) :
    ReadsAs w (field w 12 16 ++ field w 0 1) (.fmt (field w 6 6) (field w 2 4) (field w 1 1)) := by
  refine ⟨decode_fmt h, ?_, fun hr => ⟨rfl, ?_⟩⟩
  · have hmask : Machine.reservedMask 0x8 = 0x0FFFF000 ||| 0x1 := by decide
    rw [legalFields_iff_mask h (by decide), hmask, BitVec.and_or_distrib_left, append_eq_zero_iff,
      ← and_mask_eq_zero_iff w 0x0FFFF000 12 16 (by decide) (by decide),
      ← and_mask_eq_zero_iff w 0x1 0 1 (by decide) (by decide)]
    exact BitVec.or_eq_zero_iff
  · obtain ⟨hhigh, hlow⟩ := append_eq_zero_iff.mp hr
    rw [field_eq_zero_iff_toNat] at hhigh hlow
    exact encode_eq_of_toNat (by simp only [Instr.opcode, Instr.operands, toNat_field]; omega)

theorem readsAs_divl (h : w.toNat / 2 ^ 28 = 0x9) :
    ReadsAs w (field w 12 16 ++ (~~~(field w 1 1) &&& field w 0 1))
      (.divl (field w 6 6) (field w 2 4) (field w 1 1) (field w 0 1)) := by
  refine ⟨decode_divl h, ?_, fun hr => ?_⟩
  · have hbit : ∀ b : Bit, ¬ b = 1 ↔ b = 0 := by decide
    rw [append_eq_zero_iff, refTest_eq_zero_iff, ← and_mask_eq_zero_iff w 0x0FFFF000 12 16 (by decide) (by decide)]
    simp only [Machine.legalFields, h, Machine.reservedMask, getLsbD_eq_field, decide_eq_true_eq,
      decide_eq_false_iff_not, hbit, true_and]
  · obtain ⟨hhigh, htest⟩ := append_eq_zero_iff.mp hr
    rw [field_eq_zero_iff_toNat] at hhigh
    refine ⟨wf_divl_iff.mpr ((refTest_eq_zero_iff _ _).mp htest), ?_⟩
    exact encode_eq_of_toNat (by simp only [Instr.opcode, Instr.operands, toNat_field]; omega)

theorem readsAs_cfg (h : w.toNat / 2 ^ 28 = 0xA) : ReadsAs w (field w 3 25) (.cfg (field w 1 2) (field w 0 1)) := by
  refine ⟨decode_cfg h, legalFields_iff_field 25 h (by decide) (by decide) (by decide), fun hr => ⟨rfl, ?_⟩⟩
  have hzero := field_eq_zero_iff_toNat.mp hr
  exact encode_eq_of_toNat (by simp only [Instr.opcode, Instr.operands, toNat_field]; omega)

/-- Every word of a legal opcode is read in one of the six formats. -/
theorem exists_readsAs (h : w.toNat / 2 ^ 28 ≤ 0xA) : ∃ (n : Nat) (r : BitVec n) (i : Instr), ReadsAs w r i := by
  obtain ⟨i, hi, hop⟩ | hop | hop | hop | hop | hop := opcode_cases h
  · exact ⟨_, _, _, readsAs_bare hi hop⟩
  · exact ⟨_, _, _, readsAs_sws hop⟩
  · exact ⟨_, _, _, readsAs_sfmt hop⟩
  · exact ⟨_, _, _, readsAs_fmt hop⟩
  · exact ⟨_, _, _, readsAs_divl hop⟩
  · exact ⟨_, _, _, readsAs_cfg hop⟩

end

/-- So each word is a command's, or has an illegal opcode, or has illegal fields (rule R70). -/
theorem decode_cases (w : Word) :
    (0xA < w.toNat / 2 ^ 28 ∧ decode w = .error .illegalOpcode) ∨
    (w.toNat / 2 ^ 28 ≤ 0xA ∧ ¬ Machine.legalFields w ∧ decode w = .error .reservedBits) ∨
    (w.toNat / 2 ^ 28 ≤ 0xA ∧ Machine.legalFields w ∧
      ∃ i : Instr, decode w = .ok i ∧ i.wf = true ∧ encode i = w) := by
  obtain hop | hop := Nat.lt_or_ge 0xA (w.toNat / 2 ^ 28)
  · exact .inl ⟨hop, decode_illegalOpcode hop⟩
  obtain ⟨n, r, i, hread⟩ := exists_readsAs hop
  by_cases hr : r = 0
  · exact .inr (.inr ⟨hop, hread.legal_iff.mpr hr, i, by rw [hread.decode_eq, whenReservedZero_ok.mpr ⟨hr, rfl⟩],
      hread.word hr⟩)
  · exact .inr (.inl ⟨hop, fun hlegal => hr (hread.legal_iff.mp hlegal), by rw [hread.decode_eq]; exact if_neg hr⟩)

/-- Settles O2: of the three kinds of words only a command's is accepted. -/
theorem encodeOfDecodeIsTheWord : Obligations.EncodeOfDecodeIsTheWord := by
  intro w i hi
  obtain ⟨-, hd⟩ | ⟨-, -, hd⟩ | ⟨-, -, j, hj, hword⟩ := decode_cases w
  · exact nomatch hi.symm.trans hd
  · exact nomatch hi.symm.trans hd
  · obtain rfl : i = j := Except.ok.inj (hi.symm.trans hj)
    exact hword

/-! ### The engine of a word (rules R62, R71) -/

/-- A word with an error waits for the format unit. -/
theorem issuePend_of_error {w : Word} {e : DecodeError} (h : decode w = .error e) : Machine.issuePend w = .fu := by
  simp [Machine.issuePend, h]

/-- The opcode of a command names its engine (rule R62). -/
theorem instrEngine_of_opcode (i : Instr) :
    (i.opcode ∈ [0x0, 0x6, 0x7, 0x8, 0x9] → Machine.instrEngine i = .fu) ∧
    (i.opcode ∈ [0xA, 0x1, 0x2, 0x3] → Machine.instrEngine i = .arb) ∧
    (i.opcode ∈ [0x4, 0x5] → Machine.instrEngine i = .psq) := by
  cases i <;> simp [Instr.opcode, Machine.instrEngine]

/-- Settles O3: the three kinds of words, and for a command the engine its opcode names. -/
theorem decodeRoutesEveryWord : Obligations.DecodeRoutesEveryWord := by
  intro w
  dsimp only
  obtain ⟨hop, hd⟩ | ⟨hop, hill, hd⟩ | ⟨hop, hlegal, i, hi, -, rfl⟩ := decode_cases w
  · exact ⟨fun _ => ⟨hd, issuePend_of_error hd⟩, fun hle => by omega, fun hle => by omega⟩
  · exact ⟨fun hlt => by omega, fun _ _ => ⟨hd, issuePend_of_error hd⟩, fun _ hlegal => absurd hlegal hill⟩
  · refine ⟨fun hlt => by omega, fun _ hill => absurd hlegal hill, fun _ _ => ?_⟩
    obtain ⟨hfu, harb, hpsq⟩ := instrEngine_of_opcode i
    rw [opcode_encode, Machine.issuePend_of_ok hi]
    exact ⟨⟨i, hi⟩, fun h => by rw [hfu h]; rfl, fun h => by rw [harb h]; rfl, fun h => by rw [hpsq h]; rfl⟩

/-- Settles O4: the decoder evaluated on nine words. -/
theorem canonicalWordsDecode : Obligations.CanonicalWordsDecode := by
  unfold Obligations.CanonicalWordsDecode
  decide

end Sys2Proof
end

section
/-! PROOFS. Family 30, encoding: what becomes of a word written to `CMD`. A write issues it (O6), and the format unit's
one step of an illegal word reports the error (O5). -/

namespace Sys2Proof.Machine

/-- At an engine's turn the step of an illegal word rejects it (rules R70, R71). -/
theorem step_eq_rejectWord {s : State} {p : Port} {e : DecodeError} (he : decode (s.port p).cmdLatch = .error e)
    (hturn : s.EngineTurn) (hport : s.execPort = p) : step s = .next (s.rejectWord p e).advance := by
  obtain ⟨q, hm, hdue⟩ | ⟨q, hm, hdue⟩ | ⟨r, hm, hdue⟩ := hturn <;>
    simp [step, hm, hdue, runDue, runCommand, State.commandWord, hport, he]

/-- What an error of a format unit's command does: the flags, `pend` and the event (rule R170). -/
theorem State.raiseError_fu (s : State) (p : Port) (e : CmdError) :
    s.raiseError .fu p e =
      (s.setPort p { s.port p with status := (s.port p).status.failed e, pend := .none }).log (.complete p e.ecode) :=
  rfl

/-- Settles O5: the format unit has its turn, and each of the two errors is raised with its detail. -/
theorem illegalWordOnlyReports : Obligations.IllegalWordOnlyReports := by
  intro s p e hm hp he
  rw [step_eq_rejectWord he (engineTurn_fu hm hp) (State.execPort_fu hm), State.rejectWord, State.raiseError_fu]
  cases e <;> rfl

/-- A write at the offset of `CMD` is the issue step (rules R12, R61). -/
theorem step_writeCmd {s : State} {p : Port} {w : Word}
    (hm : s.move = .host (.write 4 (SlaveReg.port p .CMD).offset w)) : step s = .next (s.issue p w).advance := by
  simp [step_host hm, State.hostAccess, State.slaveWrite, slaveReg_offset]

/-- Settles O6: the two branches of the issue step, busy and idle. -/
theorem issueLatchesTheCommand : Obligations.IssueLatchesTheCommand := by
  intro s p w hm
  rw [step_writeCmd hm]
  refine ⟨fun hbusy => ?_, fun hidle => ?_⟩
  · simp [State.issue, hbusy, Status.overrun]
  · simp [State.issue, hidle, PortState.issued, Status.issued]

end Sys2Proof.Machine
end

section
/-! PROOFS. Family 40, clock arbiter: the single steps. What ends a command (O16) and the one step of `NOP` (O17); then
one rule for `exec` at each kind of turn of the arbiter (`exec_arbStart`, `exec_listing_eq`, `exec_switch_eq`), from
which the start (O24) and the labels of `CFG` (O25), `ACQ` (O26), `SWS` (O28) and of the source switch (O29 to O33)
follow line by line. -/

namespace Sys2Proof.Machine

/-! ### The end of a command (rules R82, R83, R170, R171) -/

/-- Settles O16: on each engine the end of a command is flags, `pend` and event, with the lock for the arbiter; the
codes are those of the two tables. -/
theorem raiseAndDoneReportAndFree : Obligations.RaiseAndDoneReportAndFree := by
  refine ⟨fun s p e => ?_, by decide⟩
  cases p <;> exact ⟨rfl, rfl, rfl, rfl, rfl, rfl⟩

/-- `NOP` is its end (rule R83). -/
theorem exec_nop {s : State} {p : Port} (hm : s.move = .fu p) : exec .nop s = .next (s.finish .fu p).advance := by
  simp [exec, execNop, State.execPort_fu hm]

/-- Settles O17: the one step of `NOP`; from reset it reaches no register but `STATUS`. -/
theorem nopEndsAtOnce : Obligations.NopEndsAtOnce := by
  refine ⟨fun s p hm => exec_nop hm, ((State.reset.placeCommand 0).finish .fu .p0).advance, ?_, rfl, fun r hr => ?_⟩
  · rw [State.withFetchWord_eq]
    exact (step_placeCommand _ (i := .nop) (by decide)).trans (exec_nop (p := .p0) rfl)
  · cases r with
    | port p r => cases p <;> cases r <;> first | rfl | exact absurd rfl hr
    | CLKSTAT | CTLOUT | SCRATCH => rfl

/-! ### The turns of the arbiter (rules R52, R81, R180) -/

/-- The start of a waiting arbiter command (rule R81): its first label, the lock taken. -/
theorem exec_arbStart {i : Instr} {s : State} {p : Port} (hi : instrEngine i = .arb) (hm : s.move = .arb p)
    (hl : s.clk.lock = .free) (hs : s.arb.seq = .idle) : exec i s = .next (s.arbStart p (firstLabel i)).advance := by
  have hr : s.arbReady = true := State.arbReady_of_waits (by simp [hs, arbWaitBefore])
  rw [exec_arbCommand hi (State.arbMoves_iff.mpr ⟨p, hm⟩)]
  simp [arbCommand, hr, hs, State.execPort_arb_free hm hl]

/-- Settles O24: the start, where it is enabled. -/
theorem arbiterStartTakesTheLock : Obligations.ArbiterStartTakesTheLock := by
  intro s p hm hl hs hp
  have hstart : ∀ i, instrEngine i = .arb → exec i s = .next (State.advance
      { (s.setPort p { s.port p with pend := .arbRun }) with
        clk := { s.clk with lock := .held p }, arb := { s.arb with seq := firstLabel i } }) := fun i hi => by
    rw [exec_arbStart hi hm hl hs, State.arbStart_eq _ hl hp]
  exact ⟨fun b y => hstart (.cfg b y) rfl, hstart .acq rfl, hstart .rel rfl, fun tgt => hstart (.sws tgt) rfl⟩

/-- A turn of the arbiter at a label no settle wait precedes, or with that wait over, takes the step of the listing. -/
theorem exec_listing_eq {i : Instr} {s u : State} {p : Port} {l : ArbLabel} (hi : instrEngine i = .arb)
    (hw : ∀ w, arbWaitBefore l = some w → duration w ≤ s.now - s.arb.wt) (hne : l ≠ .idle)
    (hu : s.arb.seq = l → arbListing i s p = .ok u) (h : s.ArbTurn p l) : exec i s = .next u.advance := by
  obtain ⟨hm, hlock, rfl⟩ := h
  rw [exec_arbTurn hi hm hlock (State.arbReady_of_waits hw) hne, hu rfl, answer_ok]

/-- At the labels of the switch the listing of each of its callers is the switch. -/
theorem arbListing_of_switch {i : Instr} {s : State} (p : Port) (hi : switchCaller i = true)
    (hl : s.arb.seq ∈ switchLabels) : arbListing i s p = s.switchStep p := by
  cases i <;> cases hi
  all_goals
    simp only [switchLabels, List.mem_cons, List.not_mem_nil, or_false] at hl
    rcases hl with h | h | h | h | h | h | h | h | h | h | h | h | h | h | h | h | h | h | h | h <;>
      simp only [arbListing, State.acqStep, State.relStep, State.swsStep, h]

/-- The commands that run the switch are the arbiter's. -/
theorem instrEngine_of_switchCaller {i : Instr} (hi : switchCaller i = true) : instrEngine i = .arb := by
  cases i <;> cases hi <;> rfl

/-- A turn of the arbiter at a label of the switch that follows a settle wait, the wait over. -/
theorem exec_switch_after {i : Instr} {s u : State} {p : Port} {l : ArbLabel} (hi : switchCaller i = true)
    (hl : l ∈ switchLabels) (hw : ∀ w, arbWaitBefore l = some w → duration w ≤ s.now - s.arb.wt)
    (hu : s.arb.seq = l → s.switchStep p = .ok u) (h : s.ArbTurn p l) : exec i s = .next u.advance := by
  refine exec_listing_eq (instrEngine_of_switchCaller hi) hw ?_ (fun hs => ?_) h
  · rintro rfl
    simp [switchLabels] at hl
  · rw [arbListing_of_switch p hi (hs ▸ hl), hu hs]

/-- A turn of the arbiter at a label of the switch that follows no settle wait. -/
theorem exec_switch_eq {i : Instr} {s u : State} {p : Port} {l : ArbLabel} (hi : switchCaller i = true)
    (hl : l ∈ switchLabels ∧ arbWaitBefore l = none) (hu : s.arb.seq = l → s.switchStep p = .ok u)
    (h : s.ArbTurn p l) : exec i s = .next u.advance :=
  exec_switch_after hi hl.1 (by simp [hl.2]) hu h

/-! ### The labels of the listings (rules R86, R90 to R95, R98, R114) -/

/-- Settles O25: each label's line of the listing, the branch its hypotheses choose. -/
theorem cfgSteps : Obligations.CfgSteps := by
  intro s p b y
  have hcfg : ∀ {l u}, arbWaitBefore l = none → l ≠ .idle → (s.arb.seq = l → s.cfgStep b y p = .ok u) →
      s.ArbTurn p l → exec (.cfg b y) s = .next u.advance :=
    fun hw => exec_listing_eq (i := .cfg b y) rfl (by simp [hw])
  refine ⟨?_, ?_, ?_⟩
  · exact fun h hc => hcfg rfl (by simp) (fun hl => by simp only [State.cfgStep, hl, if_pos hc]) h
  · exact fun h hc => hcfg rfl (by simp) (fun hl => by simp [State.cfgStep, hl, hc]) h
  · exact fun h => hcfg rfl (by simp) (fun hl => by simp [State.cfgStep, hl]) h

/-- Settles O26: each label's line of the listing, the branch its hypotheses choose; the reference evaluated on the nine
rates. -/
theorem acqSteps : Obligations.AcqSteps := by
  refine ⟨fun s p => ?_, by decide⟩
  have hacq : ∀ {l u}, arbWaitBefore l = none → l ≠ .idle → (s.arb.seq = l → s.acqStep p = .ok u) →
      s.ArbTurn p l → exec .acq s = .next u.advance :=
    fun hw => exec_listing_eq (i := .acq) rfl (by simp [hw])
  refine ⟨?_, ?_, ?_, ?_, ?_, ?_, ?_, ?_, ?_, ?_, ?_, ?_⟩
  · refine hacq rfl (by simp) fun hl => ?_
    by_cases hc : s.clk.reqCnt = 0 <;> simp [State.acqStep, hl, hc]
  · exact fun h hr => hacq rfl (by simp) (fun hl => by simp [State.acqStep, pickReference, State.rate, hl, hr]) h
  · exact fun h hr h0 =>
      hacq rfl (by simp) (fun hl => by simp [State.acqStep, pickReference, State.rate, refHz, hl, hr, h0]; rfl) h
  · exact fun h hr h0 h1 =>
      hacq rfl (by simp) (fun hl => by simp [State.acqStep, pickReference, State.rate, refHz, hl, hr, h0, h1]; rfl) h
  · exact fun h hr h0 h1 =>
      hacq rfl (by simp) (fun hl => by simp [State.acqStep, pickReference, State.rate, refHz, hl, hr, h0, h1]) h
  · exact hacq rfl (by simp) fun hl => by simp [State.acqStep, hl]; rfl
  · exact hacq rfl (by simp) fun hl => by simp [State.acqStep, hl]; rfl
  · refine fun h hw => exec_listing_eq (i := .acq) rfl (l := .A4) ?_ (by simp) (fun hl => ?_) h
    · rintro w ⟨⟩
      exact hw
    · simp [arbListing, State.acqStep, hl]; rfl
  · exact hacq rfl (by simp) fun hl => by simp [State.acqStep, hl]
  · exact fun h hc => hacq rfl (by simp) (fun hl => by simp [State.acqStep, cntMax, hl, hc]) h
  · refine fun h hc => hacq rfl (by simp) (fun hl => ?_) h
    have hc : s.clk.reqCnt ≠ cntMax := hc
    simp [State.acqStep, hl, hc]; rfl
  · exact hacq rfl (by simp) fun hl => by simp [State.acqStep, hl]

/-- Settles O28: each label's line of the listing. -/
theorem swsSteps : Obligations.SwsSteps := by
  refine fun s p tgt => ⟨?_, ?_⟩
  · exact exec_listing_eq (i := .sws tgt) rfl (by simp [arbWaitBefore]) (by simp) fun hl => by
      simp [arbListing, State.swsStep, hl]; rfl
  · exact exec_listing_eq (i := .sws tgt) rfl (by simp [arbWaitBefore]) (by simp) fun hl => by
      simp [arbListing, State.swsStep, hl]

/-! ### The labels of the source switch (rules R99 to R104, R108, R111) -/

/-- Settles O29: S0 and S1, the branch their hypotheses choose. -/
theorem switchTestsItsTarget : Obligations.SwitchTestsItsTarget := by
  refine fun i s p hi => ⟨?_, ?_, ?_, ?_, ?_⟩
  · exact fun h ht => exec_switch_eq hi (by decide) (fun hl => by simp only [State.switchStep, hl, if_pos ht]; rfl) h
  · exact fun h ht => exec_switch_eq hi (by decide) (fun hl => by simp [State.switchStep, hl, ht]) h
  · exact fun h ht => exec_switch_eq hi (by decide) (fun hl => by simp [State.switchStep, hl, ht]) h
  · exact fun h ht => exec_switch_eq hi (by decide) (fun hl => by simp [State.switchStep, hl, ht]) h
  · rintro h (ht | ht)
    · exact exec_switch_eq hi (by decide) (fun hl => by simp [State.switchStep, hl, ht]) h
    · exact exec_switch_eq hi (by decide) (fun hl => by simp [State.switchStep, hl, ht]) h

/-- Settles O30: X1 to X5, the branch their hypotheses choose. -/
theorem switchBringsUpTheCrystal : Obligations.SwitchBringsUpTheCrystal := by
  refine fun i s p hi => ⟨?_, ?_, ?_, ?_, ?_, ?_, ?_, ?_, ?_⟩
  · exact fun h hb => exec_switch_eq hi (by decide) (fun hl => by simp only [State.switchStep, hl, if_pos hb]; rfl) h
  · exact fun h hb => exec_switch_eq hi (by decide) (fun hl => by simp only [State.switchStep, hl, if_neg hb]) h
  · exact exec_switch_eq hi (by decide) fun hl => by simp [State.switchStep, hl]
  · exact exec_switch_eq hi (by decide) fun hl => by simp [State.switchStep, hl]; rfl
  · exact fun h hx =>
      exec_switch_eq hi (by decide) (fun hl => by simp [State.switchStep, State.xtalWait, hl, hx]; rfl) h
  · exact fun h hx ht => exec_switch_eq hi (by decide)
      (fun hl => by simp [State.switchStep, State.xtalWait, xtalTimeout, hl, hx, ht]; rfl) h
  · exact fun h hx ht => exec_switch_eq hi (by decide)
      (fun hl => by simp [State.switchStep, State.xtalWait, xtalTimeout, hl, hx, Nat.not_le.mpr ht]) h
  · exact fun h hg => exec_switch_eq hi (by decide) (fun hl => by simp [State.switchStep, hl, hg]) h
  · exact fun h hg => exec_switch_eq hi (by decide) (fun hl => by simp [State.switchStep, hl, hg]; rfl) h

/-- Settles O31: E6 to E9. -/
theorem switchToExternalTail : Obligations.SwitchToExternalTail := by
  refine fun i s p hi => ⟨?_, ?_, ?_, ?_⟩
  · exact exec_switch_eq hi (by decide) fun hl => by simp [State.switchStep, hl]; rfl
  · exact exec_switch_eq hi (by decide) fun hl => by simp [State.switchStep, hl]; rfl
  · exact fun h hw => exec_switch_after hi (by decide) (by rintro w ⟨⟩; exact hw)
      (fun hl => by simp [State.switchStep, hl]) h
  · exact exec_switch_eq hi (by decide) fun hl => by simp [State.switchStep, hl]; rfl

/-- Settles O32: P6 to P10. -/
theorem switchToPllTail : Obligations.SwitchToPllTail := by
  refine fun i s p hi => ⟨?_, ?_, ?_, ?_, ?_⟩
  · exact exec_switch_eq hi (by decide) fun hl => by simp [State.switchStep, hl]
  · exact exec_switch_eq hi (by decide) fun hl => by simp [State.switchStep, hl]; rfl
  · exact fun h hw => exec_switch_after hi (by decide) (by rintro w ⟨⟩; exact hw)
      (fun hl => by simp [State.switchStep, hl]; rfl) h
  · exact exec_switch_eq hi (by decide) fun hl => by simp [State.switchStep, hl]; rfl
  · exact fun h hw => exec_switch_after hi (by decide) (by rintro w ⟨⟩; exact hw)
      (fun hl => by simp [State.switchStep, hl]; rfl) h

/-- Settles O33: O1 to O4. -/
theorem switchToRingOscillator : Obligations.SwitchToRingOscillator := by
  refine fun i s p hi => ⟨?_, ?_, ?_, ?_⟩
  · exact exec_switch_eq hi (by decide) fun hl => by simp [State.switchStep, hl]; rfl
  · exact exec_switch_eq hi (by decide) fun hl => by simp [State.switchStep, hl]; rfl
  · exact fun h hw => exec_switch_after hi (by decide) (by rintro w ⟨⟩; exact hw)
      (fun hl => by simp [State.switchStep, hl]) h
  · exact exec_switch_eq hi (by decide) fun hl => by simp [State.switchStep, hl]; rfl

end Sys2Proof.Machine
end

section
/-! PROOFS. Family 40, clock arbiter: what every step keeps of the arbiter. The target and the count at each label (O47,
`targetFits` and `countFits` being the invariants read label by label), the errors of the source switch by its caller
(O48), and the one writer of each control field (O52). -/

namespace Sys2Proof.Machine

/-! ### The target of the switch (rules R90, R96, R99, R100) -/

/-- The targets with which each label of the switch is reached: `TargetInv` without what it says of the callers. -/
def targetFits (l : ArbLabel) (t : BitVec 2) : Prop :=
  match l with
  | .X1 | .X2 | .X3 | .X4 | .X5 => t = 0 ∨ t = 1
  | .E6 | .E7 | .E8 | .E9 => t = 0
  | .P6 | .P7 | .P8 | .P9 | .P10 => t = 1
  | .O1 | .O2 | .O3 | .O4 => t = 2
  | _ => True

/-- The target fits the label in a state that meets the invariant. -/
theorem TargetInv.fits {s : State} (h : TargetInv s) : targetFits s.arb.seq s.arb.tgt := by
  obtain ⟨-, -, hX, hE, hP, hO⟩ := h
  unfold targetFits
  split <;> rename_i hl
  case h_1 | h_2 | h_3 | h_4 | h_5 => exact hX (by simp [hl])
  case h_6 | h_7 | h_8 | h_9 => exact hE (by simp [hl])
  case h_10 | h_11 | h_12 | h_13 | h_14 => exact hP (by simp [hl])
  case h_15 | h_16 | h_17 | h_18 => exact hO (by simp [hl])
  case h_19 => trivial

/-- The invariant from its two parts: the callers and the label. -/
theorem targetInv_of_fits {s : State} (hrel : s.arb.seq ∈ switchLabels → s.arb.ret = .L5 → s.arb.tgt = 2)
    (hacq : s.arb.seq ∈ switchLabels → s.arb.ret = .A5 → s.arb.tgt = 0 ∨ s.arb.tgt = 1)
    (hfits : targetFits s.arb.seq s.arb.tgt) : TargetInv s := by
  refine ⟨hrel, hacq, fun hl => ?_, fun hl => ?_, fun hl => ?_, fun hl => ?_⟩ <;>
    simp only [List.mem_cons, List.not_mem_nil, or_false] at hl
  · rcases hl with hl | hl | hl | hl | hl <;> rw [hl] at hfits <;> exact hfits
  · rcases hl with hl | hl | hl | hl <;> rw [hl] at hfits <;> exact hfits
  · rcases hl with hl | hl | hl | hl | hl <;> rw [hl] at hfits <;> exact hfits
  · rcases hl with hl | hl | hl | hl <;> rw [hl] at hfits <;> exact hfits

/-- Outside the switch nothing is asked of the target. -/
theorem targetInv_of_outside {s : State} (hl : s.arb.seq ∉ switchLabels) : TargetInv s := by
  refine targetInv_of_fits (absurd · hl) (absurd · hl) ?_
  unfold targetFits
  split
  case h_19 => trivial
  all_goals exact absurd (by simp [switchLabels, *]) hl

/-- The invariant reads the arbiter only. -/
theorem TargetInv.congr {s u : State} (h : TargetInv s) (harb : u.arb = s.arb) : TargetInv u := by
  obtain ⟨hrel, hacq, hX, hE, hP, hO⟩ := h
  constructor <;> simpa only [harb]

/-- A listing's own step: only a call enters the switch, with the target its caller gives (rules R94, R97, R98). -/
theorem CallerStep.targetInv {s u : State} {p : Port} {i : Instr} (h : CallerStep s p i u) : TargetInv u := by
  cases h
  case A4 => exact targetInv_of_fits (by simp) (fun _ _ => by simp [em]) (by simp [targetFits])
  case L4 | W0 => exact targetInv_of_fits (by simp) (by simp) (by simp [targetFits])
  all_goals exact targetInv_of_outside (by simp [switchLabels, *])

/-- The tail of the crystal's branch is that of the target (rules R101, R103). -/
theorem State.gotoTail_fits {s : State} (ht : s.arb.tgt = 0 ∨ s.arb.tgt = 1) :
    targetFits s.gotoTail.arb.seq s.arb.tgt := by
  unfold State.gotoTail
  rcases ht with ht | ht <;> simp [ht, targetFits]

/-- A return leaves the switch. -/
theorem State.switchReturn_fits (s : State) (t : BitVec 2) : targetFits s.switchReturn.arb.seq t := by
  rw [State.switchReturn_seq]
  cases s.arb.ret <;> trivial

/-- A step of the switch goes to a label of the same branch, or chooses the branch by the target (rule R100). -/
theorem State.switchStep_fits {s u : State} {p : Port} (h : s.switchStep p = .ok u)
    (ht : targetFits s.arb.seq s.arb.tgt) : targetFits u.arb.seq s.arb.tgt := by
  unfold State.switchStep at h
  split at h <;> rename_i hl <;> cases h <;> rw [hl] at ht
  case h_1.refl =>
    split
    · exact State.switchReturn_fits _ _
    · trivial
  case h_2.refl =>
    split
    · simp [targetFits]
    · split
      · assumption
      · have hcases : ∀ t : BitVec 2, t ≠ 3 → t ≠ 2 → t = 0 ∨ t = 1 := by decide
        exact hcases _ ‹_› ‹_›
  case h_3.refl =>
    split
    · exact State.gotoTail_fits (s := s.rsUpdate .XTAL_PDN 1) ht
    · exact ht
  case h_6.refl =>
    unfold State.xtalWait
    repeat' split
    · exact ht
    · exact ht
    · rw [hl]; exact ht
  case h_7.refl =>
    split
    · exact State.gotoTail_fits (s := s.rsUpdate .XTAL_RDY_IE 0) ht
    · simp [targetFits]
  case h_11.refl | h_16.refl | h_20.refl => exact State.switchReturn_fits _ _
  all_goals exact ht

/-- A step of the switch keeps the invariant: target and return label are as they were. -/
theorem State.switchStep_targetInv {s u : State} {p : Port} (h : s.switchStep p = .ok u) (hs : TargetInv s) :
    TargetInv u := by
  obtain ⟨hret, htgt, -⟩ := State.switchStep_shared h
  have hl := State.switchStep_label h
  refine targetInv_of_fits (fun _ => ?_) (fun _ => ?_) ?_ <;> rw [htgt]
  · rw [hret]; exact hs.rel hl
  · rw [hret]; exact hs.acq hl
  · exact State.switchStep_fits h hs.fits

/-! ### The count at each label (rules R88, R97) -/

/-- The count with which each label is reached, inside the switch for the caller: `CountInv`, label by label. -/
def countFits (a : ArbState) (c : BitVec 8) : Prop :=
  match a.seq with
  | .A1 | .A2 | .A3 | .A4 | .A5 | .L4 | .L5 => c = 0
  | .L1 => c ≠ 0
  | .L2 | .L3 => c = 1
  | .idle | .C0 | .C1 | .A0 | .A6 | .A7 | .L0 | .W0 | .W1 => True
  | _ => a.ret ≠ .W1 → c = 0

/-- Inside the switch the count is 0, but for `SWS`. -/
theorem countFits_switch {a : ArbState} {c : BitVec 8} (hl : a.seq ∈ switchLabels) :
    countFits a c ↔ (a.ret ≠ .W1 → c = 0) := by
  cases hs : a.seq <;> simp [hs, switchLabels] at hl <;> simp only [countFits, hs]

/-- The count fits the label in a state that meets the invariant. -/
theorem CountInv.fits {s : State} (h : CountInv s) : countFits s.arb s.clk.reqCnt := by
  obtain ⟨hacq, hacqSwitch, hpos, hone, hzero, hrelSwitch⟩ := h
  by_cases hl : s.arb.seq ∈ switchLabels
  · rw [countFits_switch hl]
    cases hr : s.arb.ret with
    | A5 => exact fun _ => hacqSwitch hl hr
    | L5 => exact fun _ => hrelSwitch hl hr
    | W1 => exact (absurd rfl ·)
  · cases hs : s.arb.seq <;> simp only [countFits, hs]
    case A1 | A2 | A3 | A4 | A5 => exact hacq (by simp [hs])
    case L1 => exact hpos hs
    case L2 | L3 => exact hone (by simp [hs])
    case L4 | L5 => exact hzero (by simp [hs])
    all_goals exact absurd (by simp [hs, switchLabels]) hl

/-- And the other way round. -/
theorem countInv_of_fits {s : State} (h : countFits s.arb s.clk.reqCnt) : CountInv s := by
  refine ⟨fun hl => ?_, fun hl hr => ?_, fun hl => ?_, fun hl => ?_, fun hl => ?_, fun hl hr => ?_⟩
  case refine_2 | refine_6 => exact (countFits_switch hl).mp h (by simp [hr])
  case refine_3 => simpa [countFits, hl] using h
  all_goals simp only [List.mem_cons, List.not_mem_nil, or_false] at hl
  · rcases hl with hl | hl | hl | hl | hl <;> simpa [countFits, hl] using h
  · rcases hl with hl | hl <;> simpa [countFits, hl] using h
  · rcases hl with hl | hl <;> simpa [countFits, hl] using h

/-- The invariant reads the arbiter and the count. -/
theorem CountInv.congr {s u : State} (h : CountInv s) (harb : u.arb = s.arb) (hcnt : u.clk.reqCnt = s.clk.reqCnt) :
    CountInv u := countInv_of_fits (by rw [harb, hcnt]; exact h.fits)

/-- A listing's own step: the count is tested at A0, L0 and L1 and set at A6, L1 and L3. -/
theorem CallerStep.countInv {s u : State} {p : Port} {i : Instr} (h : CallerStep s p i u) (hs : CountInv s) :
    CountInv u := by
  refine countInv_of_fits ?_
  cases h
  case A0 hl hc => exact hc
  case A1 k hl => exact hs.acqZero (by simp [hl])
  case A2 hl | A3 hl => exact hs.acqZero (by simp [hl])
  case A4 hl => exact fun _ => hs.acqZero (by simp [hl])
  case L0 hl hc => exact hc
  case L1 hl hc =>
    have hpos := hs.relPos hl
    show s.clk.reqCnt = 1
    bv_omega
  case L2_ask hl hr => simpa [countFits, hl] using hs.relOne (by simp [hl])
  case L2_hold hl hr hd => simpa [countFits, hl] using hs.relOne (by simp [hl])
  case L2 hl hr hd => exact hs.relOne (by simp [hl])
  case L3 hl => rfl
  case L4 hl => exact fun _ => hs.relZero (by simp [hl])
  all_goals simp [countFits]

/-- A step of the switch changes neither the count nor the return label, and returns where they are tested. -/
theorem State.switchStep_countInv {s u : State} {p : Port} (h : s.switchStep p = .ok u) (hs : CountInv s) :
    CountInv u := by
  obtain ⟨hret, -⟩ := State.switchStep_shared h
  have hzero := (countFits_switch (State.switchStep_label h)).mp hs.fits
  refine countInv_of_fits ?_
  cases State.switchStep_outcome h with
  | within hseq hclk => rw [countFits_switch hseq, hret, hclk]; exact hzero
  | back c _ hseq hclk =>
    cases hr : s.arb.ret <;> simp_all [countFits, ReturnLabel.label]
  | failed _ hseq => simp [countFits, hseq]

/-- The start of a command enters no label that asks for anything. -/
theorem targetInv_countInv_arbStart {s : State} {p : Port} {l : ArbLabel} (hl : l ∈ [ArbLabel.C0, .A0, .L0, .W0])
    (ht : TargetInv s) (hc : CountInv s) : TargetInv (s.arbStart p l) ∧ CountInv (s.arbStart p l) := by
  have hcnt : (s.arbStart p l).clk.reqCnt = s.clk.reqCnt := by
    unfold State.arbStart
    split <;> simp
  obtain ⟨-, -, harb | harb⟩ := s.arbStart_kept p l
  · exact ⟨ht.congr harb, hc.congr harb hcnt⟩
  · simp only [List.mem_cons, List.not_mem_nil, or_false] at hl
    refine ⟨targetInv_of_outside ?_, countInv_of_fits ?_⟩ <;> rw [harb] <;>
      rcases hl with rfl | rfl | rfl | rfl <;> simp [switchLabels, countFits]

/-- Settles O47: reset aside a step is another agent's, a start, a step of a listing or of the switch. -/
theorem targetAndCountAreKept : Obligations.TargetAndCountAreKept := by
  intro s t ht hc h
  by_cases hm : s.move = .rst
  · obtain rfl : s.applyReset.advance = t := by simpa [step, hm] using h
    exact ⟨targetInv_of_outside (show ArbLabel.idle ∉ switchLabels by decide), countInv_of_fits trivial⟩
  cases step_arbView hm h with
  | untouched hk => exact ⟨ht.congr hk.arb, hc.congr hk.arb (by rw [hk.clk])⟩
  | start p l hl hidle heq =>
    subst heq
    obtain ⟨ht', hc'⟩ := targetInv_countInv_arbStart (p := p) hl ht hc
    exact ⟨ht'.congr rfl, hc'.congr rfl rfl⟩
  | step hu heq =>
    subst heq
    obtain hcall | hswitch := arbListing_cases hu
    · exact ⟨hcall.targetInv.congr rfl, (hcall.countInv hc).congr rfl rfl⟩
    · exact ⟨(State.switchStep_targetInv hswitch ht).congr rfl, (State.switchStep_countInv hswitch hc).congr rfl rfl⟩

/-! ### The errors of the switch by its caller (rules R88, R96, R100, R103, R168) -/

/-- At a label of the switch a caller's move is held or takes the step of the switch. -/
theorem exec_switch_cases {i : Instr} {s : State} {p : Port} {l : ArbLabel} (hi : switchCaller i = true)
    (hl : l ∈ switchLabels) (h : s.ArbTurn p l) :
    exec i s = .next s.advance ∨ ∃ u, s.switchStep p = .ok u ∧ exec i s = .next u.advance := by
  obtain ⟨hm, hlock, rfl⟩ := h
  cases hr : s.arbReady with
  | false => exact .inl ((exec_arbCommand (instrEngine_of_switchCaller hi) hm).trans (arbCommand_held hr _ _))
  | true =>
    obtain ⟨u, hu⟩ := State.switchStep_ok p hl
    have hne : s.arb.seq ≠ .idle := fun h0 => by simp [h0, switchLabels] at hl
    refine .inr ⟨u, hu, ?_⟩
    rw [exec_arbTurn (instrEngine_of_switchCaller hi) hm hlock hr hne, arbListing_of_switch p hi hl, hu, answer_ok]

/-- The error of X5 is the timeout (rules R103, R166). -/
theorem State.switchStep_timeout {s u : State} {p : Port} (h : s.switchStep p = .ok u) (hl : s.arb.seq = .X5)
    (hg : s.arb.got = false) : (u.port p).status.ecode = 1 := by
  simp only [State.switchStep, hl, hg] at h
  cases h
  simp [CmdError.ecode]

/-- Settles O48: the switch ends a command at S1 with target 3 or at X5 without the signal; `REL`'s target 2 is neither
there, and `ACQ`'s is not 3. -/
theorem switchErrorsPerCaller : Obligations.SwitchErrorsPerCaller := by
  intro s p l ht h hl
  obtain ⟨-, hlock, hs⟩ := id h
  refine ⟨fun hret => ?_, fun hret => ?_⟩
  · obtain hheld | ⟨u, hu, hexec⟩ := exec_switch_cases (i := .rel) rfl hl h
    · exact ⟨_, hheld, by simp, hlock⟩
    have htgt := ht.rel (hs ▸ hl) hret
    obtain ⟨-, ⟨-, h3⟩ | ⟨hX5, -⟩⟩ | ⟨hsame, hport, -⟩ := State.switchStep_ends hu
    · simp [htgt] at h3
    · have hX := ht.crystal (by simp [hX5])
      simp [htgt] at hX
    · exact ⟨_, hexec, by simp [hport], hsame.trans hlock⟩
  · obtain hheld | ⟨u, hu, hexec⟩ := exec_switch_cases (i := .acq) rfl hl h
    · exact ⟨_, hheld, .inl (by simp)⟩
    refine ⟨_, hexec, ?_⟩
    obtain ⟨-, ⟨-, h3⟩ | ⟨hX5, hg⟩⟩ | ⟨-, hport, -⟩ := State.switchStep_ends hu
    · have htgt := ht.acq (hs ▸ hl) hret
      simp [h3] at htgt
    · exact .inr ⟨hs ▸ hX5, hg, by simpa using State.switchStep_timeout hu hX5 hg⟩
    · exact .inl (by simp [hport])

/-! ### The writer of each control field (rules R80, R150, R204) -/

/-- What the arbiter alone writes: clock state, board selects and its five control fields, with its own state. -/
structure ArbSideKept (s u : State) : Prop where
  clk : u.clk = s.clk
  arb : u.arb = s.arb
  sel0 : u.sel0 = s.sel0
  sel1 : u.sel1 = s.sel1
  xtalPdn : u.ctl.xtalPdn = s.ctl.xtalPdn
  xtalRdyIe : u.ctl.xtalRdyIe = s.ctl.xtalRdyIe
  mclkSrcSel : u.ctl.mclkSrcSel = s.ctl.mclkSrcSel
  mclkInt : u.ctl.mclkInt = s.ctl.mclkInt
  pllPdn : u.ctl.pllPdn = s.ctl.pllPdn

/-- What the power sequencer alone writes: its seven control fields. -/
structure PsqSideKept (s u : State) : Prop where
  mute : u.ctl.mute = s.ctl.mute
  inhibit : u.ctl.pdnDoneInh = s.ctl.pdnDoneInh
  pdnOut : u.ctl.pdnOut = s.ctl.pdnOut
  pdnPath : u.ctl.pdnPath = s.ctl.pdnPath
  asp : u.ctl.asp3st = s.ctl.asp3st
  scratchA : u.ctl.scratchA = s.ctl.scratchA
  scratchB : u.ctl.scratchB = s.ctl.scratchB

/-- A step that leaves the control fields alone leaves each of them alone. -/
theorem arbSideKept_of_eq {s u : State} (hclk : u.clk = s.clk) (harb : u.arb = s.arb) (hctl : u.ctl = s.ctl)
    (h0 : u.sel0 = s.sel0) (h1 : u.sel1 = s.sel1) : ArbSideKept s u := by
  constructor <;> simp only [hclk, harb, hctl, h0, h1]

theorem psqSideKept_of_eq {s u : State} (hctl : u.ctl = s.ctl) : PsqSideKept s u := by
  constructor <;> rw [hctl]

/-- The end of a sequence is the one the listing takes. -/
theorem PsqEnded.psqEnd_eq {s u : State} (h : PsqEnded s u) : s.psqEnd = .ok u := by
  cases h with
  | port ho => simp [State.psqEnd, ho]
  | arb ho => simp [State.psqEnd, ho]

/-- The steps of the two sequences are the listings' steps. -/
theorem DownStep.listing {s u : State} (h : DownStep s u) : s.powerDownStep = .ok u := by
  cases h
  case D6 hl hu => simp only [State.powerDownStep, hl, hu.psqEnd_eq]
  all_goals simp only [State.powerDownStep, *]

theorem UpStep.listing {s u : State} (h : UpStep s u) : s.powerUpStep = .ok u := by
  cases h
  case U5 hl hu => simp only [State.powerUpStep, hl, hu.psqEnd_eq]
  all_goals simp only [State.powerUpStep, *]

/-- A step of a sequence leaves the arbiter's side alone. -/
theorem DownStep.arbSide {s u : State} (h : DownStep s u) : ArbSideKept s u := by
  obtain ⟨hclk, harb, h0, h1, -, hx, hie, hsel, hint, hpll, -⟩ := State.powerDownStep_kept h.listing
  exact ⟨hclk, harb, h0, h1, hx, hie, hsel, hint, hpll⟩

theorem UpStep.arbSide {s u : State} (h : UpStep s u) : ArbSideKept s u := by
  obtain ⟨hclk, harb, h0, h1, -, hx, hie, hsel, hint, hpll, -⟩ := State.powerUpStep_kept h.listing
  exact ⟨hclk, harb, h0, h1, hx, hie, hsel, hint, hpll⟩

/-- A move that is neither the arbiter's nor reset leaves the arbiter's side alone. -/
theorem MoveStep.arbSide {s u : State} {m : Move} (h : MoveStep s m u) (hrst : m ≠ .rst) (harb : ∀ p, m ≠ .arb p) :
    ArbSideKept s u := by
  cases h with
  | host a =>
    obtain ⟨hclk, harb, -, hctl, h0, h1, -⟩ := s.hostAccess_kept a
    exact arbSideKept_of_eq hclk harb hctl h0 h1
  | xtal =>
    obtain ⟨hclk, harb, -, hctl, h0, h1, -⟩ := s.xtalReady_kept
    exact arbSideKept_of_eq hclk harb hctl h0 h1
  | rst => exact absurd rfl hrst
  | arbIdle | arbStart | arbHeld | arb => exact absurd rfl (harb _)
  | psqStart l =>
    obtain ⟨hclk, harb, hctl, h0, h1, -⟩ := s.psqStart_kept (.port _) l
    exact arbSideKept_of_eq hclk harb hctl h0 h1
  | psqStartArb =>
    obtain ⟨hclk, harb, hctl, h0, h1, -⟩ := s.psqStart_kept .arb .D1
    exact arbSideKept_of_eq hclk harb hctl h0 h1
  | down _ hu => exact hu.arbSide
  | up _ hu => exact hu.arbSide
  | _ => exact arbSideKept_of_eq (by simp) (by simp) (by simp) (by simp) (by simp)

/-- A move that is neither the sequencer's nor reset leaves the sequencer's side alone. -/
theorem MoveStep.psqSide {s u : State} {m : Move} (h : MoveStep s m u) (hrst : m ≠ .rst) (hpsq : ∀ r, m ≠ .psq r) :
    PsqSideKept s u := by
  cases h with
  | host a =>
    obtain ⟨-, -, -, hctl, -⟩ := s.hostAccess_kept a
    exact psqSideKept_of_eq hctl
  | xtal =>
    obtain ⟨-, -, -, hctl, -⟩ := s.xtalReady_kept
    exact psqSideKept_of_eq hctl
  | rst => exact absurd rfl hrst
  | arbStart l =>
    obtain ⟨-, -, hctl, -⟩ := s.arbStart_outputs _ l
    exact psqSideKept_of_eq hctl
  | arb _ _ hu =>
    have hkept := (arbStep_of_listing hu).kept
    exact ⟨hkept.mute, hkept.inhibit, hkept.pdnOut, hkept.pdnPath, hkept.asp, hkept.scratchA, hkept.scratchB⟩
  | psqIdle | psqStart | psqServed | psqStartArb | psqHeld | down | up => exact absurd rfl (hpsq _)
  | _ => exact psqSideKept_of_eq (by simp)

/-- The sequencer sets `MUTE` only and clears `ASP_3ST` only (rule R204). -/
theorem MoveStep.oneWay {s u : State} {m : Move} (h : MoveStep s m u) (hrst : m ≠ .rst) :
    (s.ctl.mute = 1 → u.ctl.mute = 1) ∧ (s.ctl.asp3st = 0 → u.ctl.asp3st = 0) := by
  by_cases hpsq : ∃ r, m = .psq r
  case neg =>
    have hkept := h.psqSide hrst (not_exists.mp hpsq)
    rw [hkept.mute, hkept.asp]
    exact ⟨id, id⟩
  obtain ⟨r, rfl⟩ := hpsq
  have hstart : ∀ o l, (s.psqStart o l).ctl = s.ctl := fun o l => by
    obtain ⟨-, -, hctl, -⟩ := s.psqStart_kept o l
    exact hctl
  cases h with
  | psqIdle | psqServed | psqHeld => exact ⟨id, id⟩
  | psqStart | psqStartArb => rw [hstart]; exact ⟨id, id⟩
  | down _ hu =>
    obtain ⟨-, -, -, -, -, -, -, -, -, -, hasp, -, -, hmute, -⟩ := State.powerDownStep_kept hu.listing
    exact ⟨hmute, hasp ▸ id⟩
  | up _ hu =>
    obtain ⟨-, -, -, -, -, -, -, -, -, -, hmute, -, hasp, -⟩ := State.powerUpStep_kept hu.listing
    exact ⟨hmute ▸ id, hasp⟩

/-- Settles O52: each side is kept by the moves of the others, and the sequencer's go one way. -/
theorem eachControlFieldHasOneWriter : Obligations.EachControlFieldHasOneWriter := by
  intro s t hseq h hrst
  obtain ⟨u, rfl, hu⟩ := hseq.moveStep h
  refine ⟨fun hm => ?_, fun hm => ?_, hu.oneWay hrst⟩
  · obtain ⟨hclk, harb, h0, h1, hx, hie, hsel, hint, hpll⟩ :=
      hu.arbSide hrst fun p hp => by simp [State.arbMoves, hp] at hm
    exact ⟨hclk, harb, h0, h1, hx, hie, hsel, hint, hpll⟩
  · obtain ⟨hmute, hinh, hout, hpath, hasp, ha, hb⟩ :=
      hu.psqSide hrst fun r hr => by simp [State.psqMoves, hr] at hm
    exact ⟨hmute, hinh, hout, hpath, hasp, ha, hb⟩

end Sys2Proof.Machine
end

section
/-! PROOFS. Family 40, clock arbiter: under the premise `XtalStarts` a switch that powers the crystal up does not time
out (O39). The latch, once set, stands until the next X2 (`MoveStep.latch_kept`), and the crystal sets it before 100 ms
have passed since X3 (`latched_in_time`); so X4 goes on with the signal (`waits_or_got`). -/

namespace Sys2Proof.Machine

/-! ### The latch (rules R102, R176) -/

/-- A listing's own step does not touch the latch. -/
theorem CallerStep.latch_eq {s u : State} {p : Port} {i : Instr} (h : CallerStep s p i u) :
    u.xtalRdyLatch = s.xtalRdyLatch := by
  cases h <;> simp

/-- The switch clears the latch at X2 only. -/
theorem State.switchStep_latch {s u : State} {p : Port} (h : s.switchStep p = .ok u) (hl : s.arb.seq ≠ .X2) :
    u.xtalRdyLatch = s.xtalRdyLatch := by
  unfold State.switchStep at h
  split at h <;> cases h
  case h_4.refl => exact absurd ‹_› hl
  case h_6.refl => unfold State.xtalWait; split <;> (try split) <;> rfl
  case h_1.refl | h_2.refl | h_3.refl | h_7.refl => split <;> simp [State.switchReturn, State.gotoTail]
  all_goals simp [State.programMux, State.commitSource, State.switchReturn]

/-- The sequencer does not touch it. -/
theorem PsqEnded.latch_eq {s u : State} (h : PsqEnded s u) : u.xtalRdyLatch = s.xtalRdyLatch := by cases h <;> simp

theorem DownStep.latch_eq {s u : State} (h : DownStep s u) : u.xtalRdyLatch = s.xtalRdyLatch := by
  cases h
  case D6 hl hu => exact hu.latch_eq
  all_goals rfl

theorem UpStep.latch_eq {s u : State} (h : UpStep s u) : u.xtalRdyLatch = s.xtalRdyLatch := by
  cases h
  case U5 hl hu => exact hu.latch_eq
  all_goals rfl

/-- Nor does a host access. -/
theorem State.hostAccess_latch (s : State) (a : HostAccess) : (s.hostAccess a).xtalRdyLatch = s.xtalRdyLatch := by
  obtain ⟨-, -, -, -, -, -, hx, -⟩ := s.hostAccess_kept a
  exact hx

/-- So, reset aside, a latch that is set stays set until X2. -/
theorem MoveStep.latch_kept {s u : State} {m : Move} (h : MoveStep s m u) (hrst : m ≠ .rst) (hl : s.arb.seq ≠ .X2)
    (hx : s.xtalRdyLatch = true) : u.xtalRdyLatch = true := by
  cases h with
  | host a => rw [State.hostAccess_latch, hx]
  | xtal => unfold State.xtalReady; split <;> simp [hx]
  | rst => exact absurd rfl hrst
  | arbStart l => unfold State.arbStart; split <;> simp [hx]
  | arb _ _ hu =>
    obtain hc | hc := arbListing_cases hu
    · rw [hc.latch_eq, hx]
    · rw [State.switchStep_latch hc hl, hx]
  | psqStart | psqStartArb => simp [State.psqStart, hx]
  | down _ hu => rw [hu.latch_eq, hx]
  | up _ hu => rw [hu.latch_eq, hx]
  | _ => simp [hx]

/-! ### The arbiter at X3, X4 and X5 (rules R102, R103) -/

/-- At a label of the switch every listing takes the step of the switch. -/
theorem switchStep_of_listing {i : Instr} {s u : State} {p : Port} (h : arbListing i s p = .ok u)
    (hl : s.arb.seq ∈ switchLabels) : s.switchStep p = .ok u := by
  obtain hc | hc := arbListing_cases h
  · cases hc <;> simp_all [switchLabels]
  · exact hc

/-- A move of the arbiter that finds the lock held and no settle wait takes a step of the listing. -/
theorem MoveStep.arb_listing {s u : State} {r p : Port} (h : MoveStep s (.arb r) u) (hl : s.clk.lock = .held p)
    (hr : s.arbReady = true) : ∃ i, arbListing i s p = .ok u := by
  cases h with
  | arbIdle hf | arbStart _ hf => simp [hl] at hf
  | arbHeld _ hh => simp [hr] at hh
  | arb hp _ hu =>
    obtain rfl := Lock.held.inj (hl.symm.trans hp)
    exact ⟨_, hu⟩

/-- X5 goes on to the tail with the signal and ends the command without it. -/
theorem State.switchStep_X5 {s u : State} {p : Port} (h : s.switchStep p = .ok u) (hl : s.arb.seq = .X5) :
    u = if s.arb.got then (s.rsUpdate .XTAL_RDY_IE 0).gotoTail
      else (s.rsUpdate .XTAL_RDY_IE 0).raiseError .arb p .xtalNotReady := by
  simp only [State.switchStep, hl] at h
  exact (Except.ok.inj h).symm

/-- From X4 and X5 to X4 and X5: the arbiter stays as it is, or X4 takes its step. -/
theorem MoveStep.crystal_cases {s u : State} {m : Move} (h : MoveStep s m u) (hs : SeqInv s)
    (hl : s.arb.seq = .X4 ∨ s.arb.seq = .X5) (hu : u.arb.seq = .X4 ∨ u.arb.seq = .X5) :
    u.arb = s.arb ∨ s.arb.seq = .X4 ∧ u = s.xtalWait := by
  by_cases hrst : m = .rst
  · subst hrst
    cases h
    simp [State.applyReset, State.reset, ArbState.reset] at hu
  by_cases harb : ∃ p, m = .arb p
  case neg =>
    obtain ⟨-, heq⟩ := h.arb_kept hrst (not_exists.mp harb)
    exact .inl heq
  obtain ⟨p, rfl⟩ := harb
  cases h with
  | arbIdle | arbHeld => exact .inl rfl
  | arbStart l hf hp => simp [hs.lockFree.mp hf] at hl
  | arb _ _ hlist =>
    obtain hX4 | hX5 := hl
    · exact .inr ⟨hX4, (arbStep_of_listing hlist).at_X4 hX4⟩
    · have heq := State.switchStep_X5 (switchStep_of_listing hlist (by simp [hX5, switchLabels])) hX5
      subst heq
      split at hu
      · obtain htail | htail := (s.rsUpdate .XTAL_RDY_IE 0).gotoTail_seq <;> rw [htail] at hu <;> simp at hu
      · simp at hu

/-! ### A run from a well-sequenced state (rules R177, R179) -/

/-- No step takes time back. -/
theorem step_now_le {s t : State} (h : step s = .next t) : s.now ≤ t.now := by
  obtain ⟨d, -, rfl⟩ | ⟨-, hk⟩ := step_time_or_waitsKept h
  · exact Nat.le_add_right _ _
  · exact hk.now.ge

section
variable {σ : Nat → State} (hσ : IsRun σ) (h0 : SeqInv (σ 0))
include hσ

/-- In a run time does not go back. -/
theorem IsRun.now_le {n k : Nat} (h : n ≤ k) : (σ n).now ≤ (σ k).now := by
  refine monotone_nat_of_le_succ (f := fun n => (σ n).now) (fun n => ?_) h
  obtain ⟨t, ht, heq⟩ := hσ n
  have hle := step_now_le ht
  rw [heq]
  exact hle

include h0

/-- Every state of the run is well sequenced. -/
theorem IsRun.seqInv (n : Nat) : SeqInv (σ n) := by
  induction n with
  | zero => exact h0
  | succ n ih =>
    obtain ⟨t, ht, heq⟩ := hσ n
    obtain ⟨u, rfl, hu⟩ := ih.step_cases ht
    rw [heq]
    exact (hu.seqInv ih).advance.same (sameButSchedule_sched _ _)

/-- The next state of the run is what the move made, but for the schedule. -/
theorem IsRun.next (n : Nat) : ∃ u, MoveStep (σ n) (σ n).move u ∧ SameButSchedule u (σ (n + 1)) ∧
    (σ (n + 1)).xtalRdyLatch = u.xtalRdyLatch := by
  obtain ⟨t, ht, heq⟩ := hσ n
  obtain ⟨u, rfl, hu⟩ := (hσ.seqInv h0 n).moveStep ht
  exact ⟨u, hu, heq ▸ (sameButSchedule_advance u).trans (sameButSchedule_sched _ _), by rw [heq]; rfl⟩

/-- A reset leaves the arbiter idle. -/
theorem IsRun.idle_of_reset {n : Nat} (hm : (σ n).move = .rst) : (σ (n + 1)).arb.seq = .idle := by
  obtain ⟨u, hu, hsame, -⟩ := hσ.next h0 n
  rw [hm] at hu
  cases hu
  rw [hsame.arb]
  rfl

/-- The crystal's move sets the latch while the crystal is powered (rule R176). -/
theorem IsRun.latched_of_xtal {n : Nat} (hm : (σ n).move = .xtal) (hx : (σ n).ctl.xtalPdn = 0) :
    (σ (n + 1)).xtalRdyLatch = true := by
  obtain ⟨u, hu, -, hlatch⟩ := hσ.next h0 n
  rw [hm] at hu
  cases hu
  rw [hlatch, State.xtalReady, if_pos hx]

/-- While the arbiter is at X3, X4 and X5 a latch that is set stays set. -/
theorem IsRun.latch_stays {k n : Nat} (hkn : k ≤ n) (hk : (σ k).xtalRdyLatch = true)
    (hl : ∀ l, k ≤ l → l ≤ n → (σ l).arb.seq ∈ [.X3, .X4, .X5]) : (σ n).xtalRdyLatch = true := by
  induction n, hkn using Nat.le_induction with
  | base => exact hk
  | succ n hkn ih =>
    have hn := hl n hkn (Nat.le_succ n)
    have hn' := hl (n + 1) (hkn.trans (Nat.le_succ n)) le_rfl
    obtain ⟨u, hu, -, hlatch⟩ := hσ.next h0 n
    rw [hlatch]
    refine hu.latch_kept (fun hrst => ?_) (fun hX2 => ?_) (ih fun l hkl hln => hl l hkl (hln.trans (Nat.le_succ n)))
    · simp [hσ.idle_of_reset h0 hrst] at hn'
    · simp [hX2] at hn

/-- X3 begins the wait of X4 (rule R103). -/
theorem IsRun.wait_begins {p : Port} {j : Nat} (h : (σ j).ArbTurn p .X3) :
    (σ (j + 1)).arb.seq = .X4 ∧ (σ (j + 1)).arb.wt = (σ j).now := by
  obtain ⟨hm, hlock, hl⟩ := h
  obtain ⟨r, hr⟩ := State.arbMoves_iff.mp hm
  obtain ⟨u, hu, hsame, -⟩ := hσ.next h0 j
  rw [hr] at hu
  obtain ⟨i, hlist⟩ := hu.arb_listing hlock (by simp [State.arbReady, hl, arbWaitBefore])
  have hstep := switchStep_of_listing hlist (by simp [hl, switchLabels])
  simp only [State.switchStep, hl] at hstep
  cases hstep
  rw [hsame.arb]
  exact ⟨rfl, rfl⟩

/-- The rest of the wait: X4 since X3, or X5 with the signal, where the latch is set before 100 ms have passed. -/
theorem IsRun.waits_or_got {j n : Nat} (hjn : j + 1 ≤ n) {t₀ : Nat}
    (hbegin : (σ (j + 1)).arb.seq = .X4 ∧ (σ (j + 1)).arb.wt = t₀)
    (hl : ∀ l, j < l → l ≤ n → (σ l).arb.seq ∈ [.X4, .X5])
    (hlatch : ∀ l, j < l → l < n → t₀ + xtalTimeout ≤ (σ l).now → (σ l).xtalRdyLatch = true) :
    (σ n).arb.seq = .X4 ∧ (σ n).arb.wt = t₀ ∨ (σ n).arb.seq = .X5 ∧ (σ n).arb.got = true := by
  induction n, hjn using Nat.le_induction with
  | base => exact .inl hbegin
  | succ n hjn ih =>
    have hbefore := ih (fun l hjl hln => hl l hjl (by omega)) (fun l hjl hln => hlatch l hjl (by omega))
    have hn := hl n (by omega) (by omega)
    have hn' := hl (n + 1) (by omega) le_rfl
    obtain ⟨u, hu, hsame, -⟩ := hσ.next h0 n
    simp only [List.mem_cons, List.not_mem_nil, or_false] at hn hn'
    rw [hsame.arb] at hn' ⊢
    obtain heq | ⟨hX4, rfl⟩ := hu.crystal_cases (hσ.seqInv h0 n) hn hn'
    · rw [heq]
      exact hbefore
    obtain ⟨-, hwt⟩ | ⟨hX5, -⟩ := hbefore
    case inr => simp [hX4] at hX5
    unfold State.xtalWait
    split
    · exact .inr ⟨rfl, rfl⟩
    rename_i hx
    split
    · rename_i ht
      have h100 : xtalTimeout = 100000 := rfl
      exact absurd (hlatch n (by omega) (by omega) (by omega)) hx
    · exact .inl ⟨hX4, hwt⟩

/-- Under the premise the latch is set once 100 ms have passed since X3, if the switch is still at its wait. -/
theorem IsRun.latched_in_time (hx : XtalStarts σ) {p : Port} {i j n : Nat} (hp : PowersUp σ p i j)
    (hl : ∀ l, i < l → l ≤ n → (σ l).arb.seq ∈ [.X3, .X4, .X5]) (ht : (σ j).now + xtalTimeout ≤ (σ n).now) :
    (σ n).xtalRdyLatch = true := by
  obtain ⟨k, hik, hk, hmove⟩ := hx p i j hp
  have hkn : k < n := by
    by_contra hnk
    have := hσ.now_le (Nat.le_of_not_lt hnk)
    omega
  obtain ⟨hm, hpdn⟩ | hrst := hmove
  · exact hσ.latch_stays h0 hkn (hσ.latched_of_xtal h0 hm hpdn) fun l hkl hln => hl l (by omega) hln
  · have hidle := hl (k + 1) (by omega) hkn
    simp [hσ.idle_of_reset h0 hrst] at hidle

/-- X5 with the signal: on to the tail, port and lock as before (rule R103). -/
theorem IsRun.goes_on {p : Port} {m : Nat} (h : (σ m).ArbTurn p .X5) (hg : (σ m).arb.got = true) :
    (σ (m + 1)).arb.seq ∈ [.E6, .P6] ∧ (σ (m + 1)).port p = (σ m).port p ∧ (σ (m + 1)).clk.lock = .held p := by
  obtain ⟨hm, hlock, hl⟩ := h
  obtain ⟨r, hr⟩ := State.arbMoves_iff.mp hm
  obtain ⟨u, hu, hsame, -⟩ := hσ.next h0 m
  rw [hr] at hu
  obtain ⟨i, hlist⟩ := hu.arb_listing hlock (by simp [State.arbReady, hl, arbWaitBefore])
  have heq := State.switchStep_X5 (switchStep_of_listing hlist (by simp [hl, switchLabels])) hl
  rw [if_pos hg] at heq
  subst heq
  rw [hsame.arb, hsame.port, hsame.clk]
  refine ⟨?_, by simp [State.gotoTail], hlock⟩
  obtain htail | htail := ((σ m).rsUpdate .XTAL_RDY_IE 0).gotoTail_seq <;> rw [htail] <;> simp

end

/-- Settles O39: from X3 on the wait lasts until the latch is set, which the premise brings about in time. -/
theorem xtalStartsRulesOutTheTimeout : Obligations.XtalStartsRulesOutTheTimeout := by
  intro σ p i j m hσ h0 hx hp hjm hl hturn
  have hlabels : ∀ n, n ≤ m → ∀ l, i < l → l ≤ n → (σ l).arb.seq ∈ [.X3, .X4, .X5] := fun n hnm l hil hln => by
    obtain hlj | hjl := le_or_gt l j
    · simp [hp.between l hil hlj]
    · exact List.mem_cons_of_mem _ (hl l hjl (by omega))
  have hgot := hσ.waits_or_got h0 hjm (hσ.wait_begins h0 hp.arm) hl fun l hjl hlm ht =>
    hσ.latched_in_time h0 hx hp (hlabels l hlm.le) ht
  obtain ⟨-, -, hX5⟩ := id hturn
  obtain ⟨hX4, -⟩ | ⟨-, hg⟩ := hgot
  · simp [hX4] at hX5
  · exact ⟨hg, hσ.goes_on h0 hturn hg⟩

end Sys2Proof.Machine
end

section
/-! PROOFS. Family 40, clock arbiter: whole commands run alone, `CFG` (O54), `ACQ` (O55 to O57) and `SWS` (O59).
`ArbRun` says what such a run keeps, with one rule for each kind of move; the runs of `ACQ` and `SWS` are put together
from their parts: up to X1, the crystal's power-up, the tail of the switch, the rest of the listing. Control fields and
store are read off the events (`ArbRun.replayed`). -/

namespace Sys2Proof.Machine

/-! ### The moves of a command run alone (rules R81, R82, R176, R179) -/

/-- What one history makes of a state another makes further. -/
theorem Follows.trans {s t u : State} (h : Follows s t) (h' : Follows t u) : Follows s u := by
  obtain ⟨es, hes, hctl, hstore⟩ := h
  obtain ⟨fs, hfs, hctl', hstore'⟩ := h'
  exact ⟨es ++ fs, by simp [hfs, hes], by rw [hctl', hctl, replayCtl_append],
    by rw [hstore', hstore, replayStore_append]⟩

/-- Counting the move reports nothing. -/
theorem Follows.advance {s u : State} (h : Follows s u) : Follows s u.advance := h.quiet rfl rfl rfl

/-- Only the bytes of the fields updated change in a replay. -/
theorem read_replayStore_of_unnamed (m : Memory) (es : List Event) {a : Nat}
    (h : ∀ f v, .rsUpdate f v ∈ es → a ≠ (rsMap f).addr.toNat) :
    Memory.read (replayStore m es) a = Memory.read m a := by
  induction es generalizing m with
  | nil => rfl
  | cons e es ih =>
    have htail := fun m => ih m fun f v hv => h f v (List.mem_cons_of_mem _ hv)
    cases e with
    | rsUpdate f v => exact (htail _).trans (Memory.read_updateBits_other m _ _ (h f v (List.mem_cons_self ..)))
    | _ => exact htail _

/-- No command of the arbiter but `REL` touches the sequencer. -/
theorem arbListing_psq {i : Instr} {s u : State} {p : Port} (h : arbListing i s p = .ok u) (hi : i ≠ .rel) :
    u.psq = s.psq := by
  obtain hc | hc := arbListing_cases h
  · cases hc <;> first | exact absurd rfl hi | simp
  · obtain ⟨-, -, hpsq, -⟩ := State.switchStep_shared hc
    exact hpsq

/-- `n` steps lead from `s`, where command `i` of port `p` waits for the arbiter, to `t`, and the command still runs:
the port holds the lock, and of ports and sequencer nothing else has changed. -/
structure ArbRun (i : Instr) (p : Port) (s : State) (n : Nat) (t : State) : Prop where
  run : ∀ k, runFor (k + n) s = runFor k t
  latched : decode (s.port p).cmdLatch = .ok i
  engine : instrEngine i = .arb ∧ i ≠ .rel
  lock : t.clk.lock = .held p
  port : t.port p = { s.port p with pend := .arbRun }
  other : t.port (otherPort p) = s.port (otherPort p)
  psq : t.psq = s.psq
  follows : Follows s t

/-- The first move takes the lock and does nothing else (rule R81). -/
theorem arbRun_start {i : Instr} {p : Port} {s : State} {rest : List Move} (hm : s.sched = .arb p :: rest)
    (he : instrEngine i = .arb ∧ i ≠ .rel) (hl : s.clk.lock = .free) (hs : s.arb.seq = .idle)
    (hp : (s.port p).pend = .arbWait) (hi : decode (s.port p).cmdLatch = .ok i) :
    ∃ t, ArbRun i p s 1 t ∧ t.sched = rest ∧ t.clk = { s.clk with lock := .held p } ∧
      t.arb = { s.arb with seq := firstLabel i } ∧ t.events = s.events ∧ t.sel0 = s.sel0 ∧ t.sel1 = s.sel1 ∧
      t.now = s.now ∧ t.xtalRdyLatch = s.xtalRdyLatch ∧ t.rdata = s.rdata := by
  have hmove : s.move = .arb p := by simp [State.move, hm]
  have hstep : step s = .next (s.arbStart p (firstLabel i)).advance := by
    rw [step_eq_exec hi (engineTurn_arb_free hmove hl hs hp) (State.execPort_arb_free hmove hl),
      exec_arbStart he.1 hmove hl hs]
  obtain ⟨hport, hother⟩ := State.arbStart_port (firstLabel i) hl hp
  have heq := State.arbStart_eq (firstLabel i) hl hp
  refine ⟨_, ⟨fun k => runFor_succ hstep, hi, he, ?_, ?_, ?_, ?_, (follows_arbStart s p _).advance⟩, ?_⟩
  · simp [heq]
  · simp [hport]
  · simp [hother]
  · simp [heq]
  · simp [heq, hm]

section
variable {i : Instr} {p : Port} {s t : State} {n : Nat} (h : ArbRun i p s n t)
include h

/-- A move that leaves lock, ports and sequencer alone goes on with the run. -/
theorem ArbRun.step {u : State} (hstep : step t = .next u.advance) (hl : u.clk.lock = t.clk.lock)
    (hport : ∀ r, u.port r = t.port r) (hpsq : u.psq = t.psq) (hf : Follows t u) : ArbRun i p s (n + 1) u.advance where
  run k := by rw [← Nat.add_assoc, Nat.add_right_comm, h.run, runFor_succ hstep]
  latched := h.latched
  engine := h.engine
  lock := hl.trans h.lock
  port := by rw [State.advance_port, hport, h.port]
  other := by rw [State.advance_port, hport, h.other]
  psq := hpsq.trans h.psq
  follows := (h.follows.trans hf).advance

/-- The step of the arbiter, outside a settle wait. -/
theorem ArbRun.step_eq {u : State} (hm : t.arbMoves = true) (hr : t.arbReady = true ∧ t.arb.seq ≠ .idle)
    (hu : arbListing i t p = .ok u) : Machine.step t = .next u.advance := by
  have hi : decode (t.port p).cmdLatch = .ok i := by rw [h.port]; exact h.latched
  rw [step_eq_exec hi (engineTurn_arb hm h.lock) (State.execPort_arb hm h.lock),
    exec_arbTurn h.engine.1 hm h.lock hr.1 hr.2, hu, answer_ok]

/-- The arbiter takes a step of the listing that does not end the command. -/
theorem ArbRun.arb (hm : t.arbMoves = true) (hr : t.arbReady = true ∧ t.arb.seq ≠ .idle) (f : State → State)
    (hu : arbListing i t p = .ok (f t)) (hgo : (f t).arb.seq ≠ .idle) : ArbRun i p s (n + 1) (f t).advance := by
  have hstep := arbStep_of_listing hu
  obtain ⟨-, hidle, -⟩ | ⟨hl, hp, -⟩ := hstep.ends
  · exact absurd hidle hgo
  refine h.step (h.step_eq hm hr hu) hl (fun r => ?_) (arbListing_psq hu h.engine.2) hstep.follows
  obtain rfl | rfl := eq_or_eq_otherPort p r
  · exact hp
  · exact hstep.kept.other

/-- The last step of the run. -/
theorem ArbRun.last (hm : t.arbMoves = true) (hr : t.arbReady = true ∧ t.arb.seq ≠ .idle) {u : State}
    (hu : arbListing i t p = .ok u) : runFor (n + 1) s = .next u.advance := by
  rw [Nat.add_comm, h.run, runFor_succ (h.step_eq hm hr hu), runFor]

/-- Time passes. -/
theorem ArbRun.time {d : Nat} (hm : t.move = .time d) : ArbRun i p s (n + 1) (t.passTime d).advance :=
  h.step (by simp [Machine.step, hm]) rfl (by simp) rfl ((Follows.refl t).quiet rfl rfl rfl)

/-- The crystal signals. -/
theorem ArbRun.xtal (hm : t.move = .xtal) : ArbRun i p s (n + 1) t.xtalReady.advance := by
  obtain ⟨hclk, -, hpsq, -, -, -, -, hp0, hp1, -⟩ := t.xtalReady_kept
  exact h.step (by simp [Machine.step, hm]) (by rw [hclk]) (fun r => by cases r <;> assumption) hpsq
    (follows_xtalReady t)

/-- What `done` makes of the ports at the end of the run (rule R171). -/
theorem ArbRun.finish_port {u : State} (hu : ∀ r, u.port r = t.port r) :
    (u.finish .arb p).advance.port p =
        { s.port p with status := { (s.port p).status with busy := false, done := true }, pend := .none } ∧
      (u.finish .arb p).advance.port (otherPort p) = s.port (otherPort p) := by
  simp [hu, h.port, h.other, Status.ended]

/-- What `raise` makes of them (rule R170). -/
theorem ArbRun.raiseError_port {u : State} (hu : ∀ r, u.port r = t.port r) (e : CmdError) :
    (u.raiseError .arb p e).advance.port p =
        { s.port p with status := (s.port p).status.failed e, pend := .none } ∧
      (u.raiseError .arb p e).advance.port (otherPort p) = s.port (otherPort p) := by
  simp [hu, h.port, h.other]

/-- Control fields and store are what the events of the run make of them (rules R43, R50). -/
theorem ArbRun.replayed {es : List Event} (he : t.events = s.events ++ es) :
    t.ctl = replayCtl s.ctl es ∧ t.store = replayStore s.store es := by
  obtain ⟨fs, hfs, hctl, hstore⟩ := h.follows
  obtain rfl := List.append_cancel_left (he.symm.trans hfs)
  exact ⟨hctl, hstore⟩

end

/-- The schedule is not seen of a port. -/
@[simp] theorem State.port_sched (s : State) (ms : List Move) (r : Port) :
    State.port { s with sched := ms } r = s.port r := by
  cases r <;> rfl

/-! ### `CFG` (rules R85, R86) -/

/-- Settles O54: the start, C0, and with no request held C1. -/
theorem cfgRun : Obligations.CfgRun := by
  intro s p b y hl hs hp hi
  have harbIdle : { s.arb with seq := .idle } = s.arb := by rw [← hs]
  have hclkFree : { s.clk with lock := .free } = s.clk := by rw [← hl]
  refine ⟨fun hc => ?_, fun hc => ?_⟩
  · obtain ⟨t, ht, hm, hclk, harb, hev, h0, h1, hnow, hx, hr⟩ :=
      arbRun_start (i := .cfg b y) (s := { s with sched := [.arb p, .arb p, .arb p] }) rfl (by simp [instrEngine]) hl hs
        (by simpa) (by simpa)
    have hC0 := ht.arb (by simp [State.arbMoves, State.move, hm])
      (by simp [State.arbReady, harb, firstLabel, arbWaitBefore])
      (·.arbGoto .C1) (by simp [arbListing, State.cfgStep, harb, firstLabel, hclk, hc]) (by simp)
    have hC1 := hC0.last (by simp [State.arbMoves, State.move, hm]) (by simp [State.arbReady, arbWaitBefore]) rfl
    obtain ⟨hctl, hstore⟩ := ht.replayed (es := []) (by simp [hev])
    obtain ⟨hport, hother⟩ := hC0.finish_port (u := { (t.arbGoto .C1).advance with
      clk := { (t.arbGoto .C1).advance.clk with pllBypass := y, xtalBias := b } }) (fun r => by cases r <;> rfl)
    refine ⟨_, hC1, by simp [hev], by simp [hclk, hl], by simp [harb, harbIdle], by simp [ht.psq], ?_, by simp [h0],
      by simp [h1], by simp [hnow], by simp [hx], by simp [hr], hport.trans (by simp), hother.trans (by simp), ?_⟩
    · simp [hctl, replayCtl]
    · simp [hstore, replayStore]
  · obtain ⟨t, ht, hm, hclk, harb, hev, h0, h1, hnow, hx, hr⟩ :=
      arbRun_start (i := .cfg b y) (s := { s with sched := [.arb p, .arb p] }) rfl (by simp [instrEngine]) hl hs
        (by simpa) (by simpa)
    have hC0 := ht.last (by simp [State.arbMoves, State.move, hm])
      (by simp [State.arbReady, harb, firstLabel, arbWaitBefore])
      (u := t.raiseError .arb p .cfgInUse) (by simp only [arbListing, State.cfgStep, harb, firstLabel, hclk, if_pos hc])
    obtain ⟨hctl, hstore⟩ := ht.replayed (es := []) (by simp [hev])
    obtain ⟨hport, hother⟩ := ht.raiseError_port (fun _ => rfl) .cfgInUse
    refine ⟨_, hC0, by simp [hev, CmdError.ecode], by simp [hclk, hclkFree], by simp [harb, harbIdle], by simp [ht.psq],
      ?_, by simp [h0], by simp [h1], by simp [hnow], by simp [hx], by simp [hr], hport.trans (by simp; rfl),
      hother.trans (by simp), ?_⟩
    · simp [hctl, replayCtl]
    · simp [hstore, replayStore]

/-! ### The parts of the runs (rules R90 to R95, R101 to R104, R108) -/

/-- What A2 and A3 report: the board told of the reference, the settle wait begun. -/
def referenceEvents (k : Bit) : List Event := [.boardSel k, .wait .T_REFSEL]

/-- What X2 and X3 report: the crystal powered, the interrupt armed. -/
def powerUpEvents : List Event := [.rsUpdate .XTAL_PDN 0, .rsUpdate .XTAL_RDY_IE 1]

/-- What the switch to EXTERNAL reports from E6 on. -/
def externalEvents (k : Bit) : List Event :=
  [.rsUpdate .MCLK_SRC_SEL 0, .rsUpdate .MCLK_INT (k.setWidth 8), .wait .T_SRC_SETTLE, .rsUpdate .PLL_PDN 1]

/-- What the switch to PLL reports from P6 on. -/
def pllEvents (k : Bit) : List Event :=
  [.rsUpdate .PLL_PDN 0, .wait .T_SRC_SETTLE, .rsUpdate .MCLK_SRC_SEL 1, .rsUpdate .MCLK_INT (k.setWidth 8),
    .wait .T_SRC_SETTLE]

/-- `ACQ` from its start up to X1 of the switch to EXTERNAL: the reference chosen, the board told (rules R90 to R94). -/
theorem acqRun_toX1 {s : State} {p : Port} {k : Bit} {rest : List Move}
    (hm : s.sched = .arb p :: .arb p :: .arb p :: .arb p :: .arb p :: .time (duration .T_REFSEL) :: .arb p :: .arb p ::
      .arb p :: rest) (hl : s.clk.lock = .free) (hs : s.arb.seq = .idle) (hp : (s.port p).pend = .arbWait)
    (hi : decode (s.port p).cmdLatch = .ok .acq) (hc : s.clk.reqCnt = 0) (hy : s.clk.pllBypass = 1)
    (hsrc : s.clk.clkSrc ≠ .external) (hk : pickReference (s.port p).rateLatch.toNat = some k) :
    ∃ t, ArbRun .acq p s 9 t ∧ t.sched = rest ∧ t.clk = { s.clk with lock := .held p, refSel := k } ∧
      t.arb.seq = .X1 ∧ t.arb.ret = .A5 ∧ t.arb.tgt = 0 ∧
      t.events = s.events ++ referenceEvents k ∧ t.sel0 = (k == 0) ∧ t.sel1 = (k == 1) := by
  obtain ⟨t, ht, hm, hclk, harb, hev, -⟩ := arbRun_start hm (by simp [instrEngine]) hl hs hp hi
  have hcode : ¬ (0#2 = sourceCode s.clk.clkSrc) := by
    revert hsrc
    cases s.clk.clkSrc <;> decide
  have hrate : pickReference (t.port p).rateLatch.toNat = some k := by simpa [ht.port] using hk
  have hA0 := ht.arb (by simp [State.arbMoves, State.move, hm])
    (by simp [State.arbReady, harb, firstLabel, arbWaitBefore]) (·.arbGoto .A1)
    (by simp [arbListing, State.acqStep, harb, firstLabel, hclk, hc]) (by simp)
  have hA1 := hA0.arb (by simp [State.arbMoves, State.move, hm]) (by simp [State.arbReady, arbWaitBefore])
    (fun t => ({ t with clk := { t.clk with refSel := k } }).arbGoto .A2)
    (by simp [arbListing, State.acqStep, State.rate, hrate]) (by simp)
  have hA2 := hA1.arb (by simp [State.arbMoves, State.move, hm]) (by simp [State.arbReady, arbWaitBefore])
    (fun t => (t.boardSelect t.clk.refSel).arbGoto .A3) (by simp [arbListing, State.acqStep]) (by simp)
  have hA3 := hA2.arb (by simp [State.arbMoves, State.move, hm]) (by simp [State.arbReady, arbWaitBefore])
    (fun t => (t.arbWait .T_REFSEL).arbGoto .A4) (by simp [arbListing, State.acqStep]) (by simp)
  have htime := hA3.time (d := duration .T_REFSEL) (by simp [State.move, hm])
  have hA4 := htime.arb (by simp [State.arbMoves, State.move, hm])
    (by simp [State.arbReady, arbWaitBefore, waitOver_iff, State.timeStep]) (·.callSwitch 0 .A5)
    (by simp [arbListing, State.acqStep, hclk, hy]) (by simp)
  have hS0 := hA4.arb (by simp [State.arbMoves, State.move, hm]) (by simp [State.arbReady, arbWaitBefore])
    (·.arbGoto .S1) (by simp [arbListing, State.acqStep, State.switchStep, hclk, hcode]) (by simp)
  have hS1 := hS0.arb (by simp [State.arbMoves, State.move, hm]) (by simp [State.arbReady, arbWaitBefore])
    (·.arbGoto .X1) (by simp [arbListing, State.acqStep, State.switchStep]) (by simp)
  exact ⟨_, hS1, by simp [hm], by simp [hclk], by simp, by simp, by simp, by simp [hev, referenceEvents],
    by simp, by simp⟩

section
variable {i : Instr} {p : Port} {s t : State} {n : Nat} {rest : List Move}

/-- The crystal powered up and armed, up to its wait (rules R102, R103). -/
theorem ArbRun.toX4 (h : ArbRun i p s n t) (hi : switchCaller i = true) (hs : t.arb.seq = .X1)
    (hb : t.clk.xtalBias ≠ 0) (hm : t.sched = .arb p :: .arb p :: .arb p :: rest) :
    ∃ u, ArbRun i p s (n + 3) u ∧ u.sched = rest ∧ u.clk = t.clk ∧ u.arb = { t.arb with seq := .X4, wt := u.now } ∧
      u.events = t.events ++ powerUpEvents ∧ u.ctl.xtalPdn = 0 ∧
      u.xtalRdyLatch = false ∧ u.sel0 = t.sel0 ∧ u.sel1 = t.sel1 := by
  have hswitch : ∀ u : State, u.arb.seq ∈ switchLabels → arbListing i u p = u.switchStep p :=
    fun u => arbListing_of_switch p hi
  have hX1 := h.arb (by simp [State.arbMoves, State.move, hm]) (by simp [State.arbReady, hs, arbWaitBefore])
    (·.arbGoto .X2) (by rw [hswitch _ (by simp [hs, switchLabels])]; simp only [State.switchStep, hs, if_neg hb])
    (by simp)
  have hX2 := hX1.arb (by simp [State.arbMoves, State.move, hm]) (by simp [State.arbReady, arbWaitBefore])
    (fun t => (({ t with xtalRdyLatch := false }).rsUpdate .XTAL_PDN 0).arbGoto .X3)
    (by rw [hswitch _ (by simp [switchLabels])]; simp [State.switchStep]) (by simp)
  have hX3 := hX2.arb (by simp [State.arbMoves, State.move, hm]) (by simp [State.arbReady, arbWaitBefore])
    (fun t => ({ t.rsUpdate .XTAL_RDY_IE 1 with arb := { t.arb with wt := t.now } }).arbGoto .X4)
    (by rw [hswitch _ (by simp [switchLabels])]; simp [State.switchStep]) (by simp)
  exact ⟨_, hX3, by simp [hm], by simp, by simp, by simp [powerUpEvents], by simp [Ctl.set], by simp, by simp, by simp⟩

/-- The tail of the switch to EXTERNAL, from E6 to its return (rule R104). -/
theorem ArbRun.externalTail (h : ArbRun i p s n t) (hi : switchCaller i = true) (hs : t.arb.seq = .E6)
    (hm : t.sched = .arb p :: .arb p :: .time (duration .T_SRC_SETTLE) :: .arb p :: .arb p :: rest) :
    ∃ u, ArbRun i p s (n + 5) u ∧ u.sched = rest ∧ u.clk = { t.clk with clkSrc := .external } ∧
      u.arb.seq = t.arb.ret.label ∧ u.events = t.events ++ externalEvents t.clk.refSel ∧
      u.sel0 = t.sel0 ∧ u.sel1 = t.sel1 ∧ u.xtalRdyLatch = t.xtalRdyLatch := by
  have hswitch : ∀ u : State, u.arb.seq ∈ switchLabels → arbListing i u p = u.switchStep p :=
    fun u => arbListing_of_switch p hi
  have hE6 := h.arb (by simp [State.arbMoves, State.move, hm]) (by simp [State.arbReady, hs, arbWaitBefore])
    (fun t => (t.programMux 0 t.clk.refSel).arbGoto .E7)
    (by rw [hswitch _ (by simp [hs, switchLabels])]; simp [State.switchStep, hs]) (by simp)
  have hE7 := hE6.arb (by simp [State.arbMoves, State.move, hm, State.programMux])
    (by simp [State.arbReady, arbWaitBefore])
    (fun t => (t.arbWait .T_SRC_SETTLE).arbGoto .E8)
    (by rw [hswitch _ (by simp [switchLabels])]; simp [State.switchStep]) (by simp)
  have htime := hE7.time (d := duration .T_SRC_SETTLE) (by simp [State.move, hm, State.programMux])
  have hE8 := htime.arb (by simp [State.arbMoves, State.move, hm, State.programMux])
    (by simp [State.arbReady, arbWaitBefore, waitOver_iff, State.timeStep])
    (fun t => (t.rsUpdate .PLL_PDN 1).arbGoto .E9)
    (by rw [hswitch _ (by simp [switchLabels])]; simp [State.switchStep]) (by simp)
  have hE9 := hE8.arb (by simp [State.arbMoves, State.move, hm, State.programMux])
    (by simp [State.arbReady, arbWaitBefore]) (·.commitSource .external)
    (by rw [hswitch _ (by simp [switchLabels])]; simp [State.switchStep])
    (by cases hr : t.arb.ret <;> simp [State.commitSource, State.programMux, hr, ReturnLabel.label])
  refine ⟨_, hE9, ?_, ?_, ?_, ?_, ?_⟩
  · simp [hm, State.commitSource, State.switchReturn, State.programMux]
  · simp [State.commitSource, State.switchReturn, State.programMux]
  · simp [State.commitSource, State.programMux]
  · simp [State.commitSource, State.switchReturn, State.programMux, externalEvents]
  · simp [State.commitSource, State.switchReturn, State.programMux]

/-- The tail of the switch to PLL, from P6 to its return (rule R108). -/
theorem ArbRun.pllTail (h : ArbRun i p s n t) (hi : switchCaller i = true) (hs : t.arb.seq = .P6)
    (hm : t.sched = .arb p :: .arb p :: .time (duration .T_SRC_SETTLE) :: .arb p :: .arb p ::
      .time (duration .T_SRC_SETTLE) :: .arb p :: rest) :
    ∃ u, ArbRun i p s (n + 7) u ∧ u.sched = rest ∧ u.clk = { t.clk with clkSrc := .pll } ∧
      u.arb.seq = t.arb.ret.label ∧ u.events = t.events ++ pllEvents t.clk.refSel ∧
      u.sel0 = t.sel0 ∧ u.sel1 = t.sel1 := by
  have hswitch : ∀ u : State, u.arb.seq ∈ switchLabels → arbListing i u p = u.switchStep p :=
    fun u => arbListing_of_switch p hi
  have hP6 := h.arb (by simp [State.arbMoves, State.move, hm]) (by simp [State.arbReady, hs, arbWaitBefore])
    (fun t => (t.rsUpdate .PLL_PDN 0).arbGoto .P7)
    (by rw [hswitch _ (by simp [hs, switchLabels])]; simp [State.switchStep, hs]) (by simp)
  have hP7 := hP6.arb (by simp [State.arbMoves, State.move, hm]) (by simp [State.arbReady, arbWaitBefore])
    (fun t => (t.arbWait .T_SRC_SETTLE).arbGoto .P8)
    (by rw [hswitch _ (by simp [switchLabels])]; simp [State.switchStep]) (by simp)
  have htime := hP7.time (d := duration .T_SRC_SETTLE) (by simp [State.move, hm])
  have hP8 := htime.arb (by simp [State.arbMoves, State.move, hm])
    (by simp [State.arbReady, arbWaitBefore, waitOver_iff, State.timeStep])
    (fun t => (t.programMux 1 t.clk.refSel).arbGoto .P9)
    (by rw [hswitch _ (by simp [switchLabels])]; simp [State.switchStep]) (by simp)
  have hP9 := hP8.arb (by simp [State.arbMoves, State.move, hm, State.programMux])
    (by simp [State.arbReady, arbWaitBefore]) (fun t => (t.arbWait .T_SRC_SETTLE).arbGoto .P10)
    (by rw [hswitch _ (by simp [switchLabels])]; simp [State.switchStep]) (by simp)
  have htime' := hP9.time (d := duration .T_SRC_SETTLE) (by simp [State.move, hm, State.programMux])
  have hP10 := htime'.arb (by simp [State.arbMoves, State.move, hm, State.programMux])
    (by simp [State.arbReady, arbWaitBefore, waitOver_iff, State.timeStep]) (·.commitSource .pll)
    (by rw [hswitch _ (by simp [switchLabels])]; simp [State.switchStep])
    (by cases hr : t.arb.ret <;> simp [State.commitSource, State.programMux, hr, ReturnLabel.label])
  refine ⟨_, hP10, ?_, ?_, ?_, ?_, ?_⟩
  · simp [hm, State.commitSource, State.switchReturn, State.programMux]
  · simp [State.commitSource, State.switchReturn, State.programMux]
  · simp [State.commitSource, State.programMux]
  · simp [State.commitSource, State.switchReturn, State.programMux, pllEvents]
  · simp [State.commitSource, State.switchReturn, State.programMux]

/-- The crystal unused: powered down without a wait, on to the tail (rule R101). -/
theorem ArbRun.crystalUnused (h : ArbRun i p s n t) (hi : switchCaller i = true) (hs : t.arb.seq = .X1)
    (hb : t.clk.xtalBias = 0) (hm : t.sched = .arb p :: rest) :
    ∃ u, ArbRun i p s (n + 1) u ∧ u.sched = rest ∧ u.clk = t.clk ∧
      u.arb = { t.arb with seq := if t.arb.tgt = 0 then .E6 else .P6 } ∧
      u.events = t.events ++ [Event.rsUpdate .XTAL_PDN 1] ∧ u.sel0 = t.sel0 ∧ u.sel1 = t.sel1 := by
  have hX1 := h.arb (by simp [State.arbMoves, State.move, hm]) (by simp [State.arbReady, hs, arbWaitBefore])
    (fun t => (t.rsUpdate .XTAL_PDN 1).gotoTail)
    (by rw [arbListing_of_switch p hi (by simp [hs, switchLabels])]; simp only [State.switchStep, hs, if_pos hb])
    (by obtain htail | htail := (t.rsUpdate .XTAL_PDN 1).gotoTail_seq <;> rw [htail] <;> simp)
  exact ⟨_, hX1, by simp [hm, State.gotoTail], rfl, rfl, rfl, rfl, rfl⟩

/-- The crystal signals at X4: the interrupt disarmed, on to E6 (rules R103, R176). -/
theorem ArbRun.crystalReady (h : ArbRun i p s n t) (hi : switchCaller i = true) (hs : t.arb.seq = .X4)
    (htgt : t.arb.tgt = 0) (hx : t.ctl.xtalPdn = 0) (hm : t.sched = .xtal :: .arb p :: .arb p :: rest) :
    ∃ u, ArbRun i p s (n + 3) u ∧ u.sched = rest ∧ u.clk = t.clk ∧ u.arb.seq = .E6 ∧ u.arb.ret = t.arb.ret ∧
      u.events = t.events ++ [Event.xtalRdy, Event.rsUpdate .XTAL_RDY_IE 0] ∧ u.xtalRdyLatch = true := by
  have hready : t.xtalReady = { t with xtalRdyLatch := true, events := t.events ++ [Event.xtalRdy] } := if_pos hx
  have hxtal := h.xtal (by simp [State.move, hm])
  rw [hready] at hxtal
  have hX4 := hxtal.arb (by simp [State.arbMoves, State.move, hm]) (by simp [State.arbReady, hs, arbWaitBefore])
    (fun t => ({ t with arb := { t.arb with got := true } }).arbGoto .X5)
    (by rw [arbListing_of_switch p hi (by simp [hs, switchLabels])]; simp [State.switchStep, State.xtalWait, hs])
    (by simp)
  have hX5 := hX4.arb (by simp [State.arbMoves, State.move, hm]) (by simp [State.arbReady, arbWaitBefore])
    (fun t => (t.rsUpdate .XTAL_RDY_IE 0).arbGoto .E6)
    (by rw [arbListing_of_switch p hi (by simp [switchLabels])]; simp [State.switchStep, State.gotoTail, htgt])
    (by simp)
  exact ⟨_, hX5, by simp [hm], by simp, by simp, by simp, by simp, by simp⟩

/-- The crystal stays silent for 100 ms: the interrupt disarmed, the command ended with the timeout (rule R103). -/
theorem ArbRun.crystalSilent (h : ArbRun i p s n t) (hi : switchCaller i = true)
    (hs : t.arb.seq = .X4 ∧ t.arb.wt = t.now) (hx : t.xtalRdyLatch = false)
    (hm : t.sched = .time xtalTimeout :: .arb p :: .arb p :: rest) :
    ∃ u, ArbRun i p s (n + 2) u ∧
      runFor (n + 3) s = .next ((u.rsUpdate .XTAL_RDY_IE 0).raiseError .arb p .xtalNotReady).advance ∧
      u.clk = t.clk ∧ u.events = t.events ∧ u.sel0 = t.sel0 ∧ u.sel1 = t.sel1 ∧ u.xtalRdyLatch = false := by
  obtain ⟨hs, hwt⟩ := hs
  have htime := h.time (d := xtalTimeout) (by simp [State.move, hm])
  have hX4 := htime.arb (by simp [State.arbMoves, State.move, hm]) (by simp [State.arbReady, hs, arbWaitBefore])
    (fun t => ({ t with arb := { t.arb with got := false } }).arbGoto .X5)
    (by rw [arbListing_of_switch p hi (by simp [hs, switchLabels])]
        simp [State.switchStep, State.xtalWait, State.timeStep, hs, hwt, hx])
    (by simp)
  have hX5 := hX4.last (by simp [State.arbMoves, State.move, hm]) (by simp [State.arbReady, arbWaitBefore])
    (by rw [arbListing_of_switch p hi (by simp [switchLabels])]; rfl)
  exact ⟨_, hX4, hX5, by simp, by simp, by simp, by simp, by simp [hx]⟩

/-- `ACQ` at count 0 from the return of the switch to its end (rule R95). -/
theorem ArbRun.acqEnd (h : ArbRun .acq p s n t) (hs : t.arb.seq = .A5) (hc : t.clk.reqCnt = 0)
    (hm : t.sched = .arb p :: .arb p :: .arb p :: rest) :
    ∃ u, ArbRun .acq p s (n + 2) u ∧ runFor (n + 3) s = .next (u.finish .arb p).advance ∧
      u.clk = { t.clk with reqCnt := 1 } ∧ u.events = t.events ∧ u.sel0 = t.sel0 ∧ u.sel1 = t.sel1 ∧
      u.xtalRdyLatch = t.xtalRdyLatch := by
  have hA5 := h.arb (by simp [State.arbMoves, State.move, hm]) (by simp [State.arbReady, hs, arbWaitBefore])
    (·.arbGoto .A6) (by simp [arbListing, State.acqStep, hs]) (by simp)
  have hA6 := hA5.arb (by simp [State.arbMoves, State.move, hm]) (by simp [State.arbReady, arbWaitBefore])
    (fun t => ({ t with clk := { t.clk with reqCnt := t.clk.reqCnt + 1 } }).arbGoto .A7)
    (by simp [arbListing, State.acqStep, hc, cntMax]) (by simp)
  have hA7 := hA6.last (by simp [State.arbMoves, State.move, hm]) (by simp [State.arbReady, arbWaitBefore]) rfl
  exact ⟨_, hA6, hA7, by simp [hc], by simp, by simp, by simp, by simp⟩

end

/-! ### `ACQ` (rules R88, R104, R112) -/

/-- Settles O55: up to X1, the crystal unused, the tail to EXTERNAL, the rest of the listing. -/
theorem acqRunWithCrystalUnused : Obligations.AcqRunWithCrystalUnused := by
  intro s p k hl hs hp hi hc hy hb hsrc hk
  obtain ⟨a, ha, hma, hclka, hseqa, hreta, htgta, heva, h0a, h1a⟩ := acqRun_toX1 (s := { s with
    sched := List.replicate 5 (Move.arb p) ++ [Move.time (duration .T_REFSEL)] ++ List.replicate 6 (Move.arb p) ++
      [Move.time (duration .T_SRC_SETTLE)] ++ List.replicate 5 (Move.arb p) }) rfl hl hs (by simpa) (by simpa)
    hc hy hsrc (by simpa)
  obtain ⟨b, hrb, hmb, hclkb, harbb, hevb, h0b, h1b⟩ := ha.crystalUnused rfl hseqa (by simp [hclka, hb]) hma
  obtain ⟨c, hrc, hmc, hclkc, hseqc, hevc, h0c, h1c, -⟩ := hrb.externalTail rfl (by simp [harbb, htgta]) hmb
  obtain ⟨d, hrd, hrun, hclkd, hevd, h0d, h1d, -⟩ := hrc.acqEnd (by simp [hseqc, harbb, hreta, ReturnLabel.label])
    (by simp [hclkc, hclkb, hclka, hc]) hmc
  have hev : d.events = s.events ++ (referenceEvents k ++ [Event.rsUpdate .XTAL_PDN 1] ++ externalEvents k) := by
    simp [hevd, hevc, hevb, heva, hclkb, hclka]
  obtain ⟨hctl, hstore⟩ := hrd.replayed hev
  obtain ⟨hport, hother⟩ := hrd.finish_port fun _ => rfl
  refine ⟨_, hrun, by simp [hev, referenceEvents, externalEvents], ?_, ?_, ?_, ?_, by simp,
    by simp [hrd.psq], by rw [hport]; simp, by rw [hother]; simp, fun x hx => ?_⟩
  · simp [hclkd, hclkc, hclkb, hclka, hl]
  · simp [hctl, replayCtl, Ctl.set, referenceEvents, externalEvents]
  · simp [h0d, h0c, h0b, h0a]
  · simp [h1d, h1c, h1b, h1a]
  · simp only [State.advance_store, State.finish_store, hstore]
    refine read_replayStore_of_unnamed _ _ fun f v hv hfx => hx ?_
    simp only [referenceEvents, externalEvents, List.cons_append, List.nil_append, List.mem_cons, List.not_mem_nil,
      or_false, reduceCtorEq, Event.rsUpdate.injEq, false_or] at hv
    obtain ⟨rfl, -⟩ | ⟨rfl, -⟩ | ⟨rfl, -⟩ | ⟨rfl, -⟩ := hv <;> simp [hfx]

/-- Settles O56: up to X1, the crystal powered up and signalling, the tail to EXTERNAL, the rest of the listing. -/
theorem acqRunWithCrystalReady : Obligations.AcqRunWithCrystalReady := by
  intro s p k hl hs hp hi hc hy hb hsrc hk
  obtain ⟨a, ha, hma, hclka, hseqa, hreta, htgta, heva, -⟩ := acqRun_toX1 (s := { s with
    sched := List.replicate 5 (Move.arb p) ++ [Move.time (duration .T_REFSEL)] ++ List.replicate 6 (Move.arb p) ++
      [Move.xtal] ++ List.replicate 4 (Move.arb p) ++ [Move.time (duration .T_SRC_SETTLE)] ++
      List.replicate 5 (Move.arb p) }) rfl hl hs (by simpa) (by simpa) hc hy hsrc (by simpa)
  obtain ⟨b, hrb, hmb, hclkb, harbb, hevb, hxb, -⟩ := ha.toX4 rfl hseqa (by simpa [hclka] using hb) hma
  obtain ⟨c, hrc, hmc, hclkc, hseqc, hretc, hevc, hxc⟩ :=
    hrb.crystalReady rfl (by simp [harbb]) (by simp [harbb, htgta]) hxb hmb
  obtain ⟨d, hrd, hmd, hclkd, hseqd, hevd, -, -, hxd⟩ := hrc.externalTail rfl hseqc hmc
  obtain ⟨e, hre, hrun, hclke, heve, -, -, hxe⟩ := hrd.acqEnd (by simp [hseqd, hretc, harbb, hreta, ReturnLabel.label])
    (by simp [hclkd, hclkc, hclkb, hclka, hc]) hmd
  have hev : e.events = s.events ++ (referenceEvents k ++ powerUpEvents ++
      [Event.xtalRdy, Event.rsUpdate .XTAL_RDY_IE 0] ++ externalEvents k) := by
    simp [heve, hevd, hevc, hevb, heva, hclkc, hclkb, hclka]
  obtain ⟨hctl, -⟩ := hre.replayed hev
  obtain ⟨hport, hother⟩ := hre.finish_port fun _ => rfl
  refine ⟨_, hrun, by simp [hev, referenceEvents, powerUpEvents, externalEvents], ?_, ?_, by simp,
    by simp [hre.psq], ?_, by rw [hport]; simp, by rw [hother]; simp⟩
  · simp [hclke, hclkd, hclkc, hclkb, hclka, hl]
  · simp [hctl, replayCtl, Ctl.set, referenceEvents, powerUpEvents, externalEvents]
  · simp [hxe, hxd, hxc]

/-- Settles O57: up to X1, the crystal powered up and silent. -/
theorem acqRunTimesOut : Obligations.AcqRunTimesOut := by
  intro s p k hl hs hp hi hc hy hb hsrc hk
  have hclkFree : { s.clk with refSel := k, lock := .free } = { s.clk with refSel := k } := by rw [← hl]
  obtain ⟨a, ha, hma, hclka, hseqa, hreta, htgta, heva, h0a, h1a⟩ := acqRun_toX1 (s := { s with
    sched := List.replicate 5 (Move.arb p) ++ [Move.time (duration .T_REFSEL)] ++ List.replicate 6 (Move.arb p) ++
      [Move.time xtalTimeout] ++ List.replicate 2 (Move.arb p) }) rfl hl hs (by simpa) (by simpa) hc hy hsrc (by simpa)
  obtain ⟨b, hrb, hmb, hclkb, harbb, hevb, -, hxb, h0b, h1b⟩ := ha.toX4 rfl hseqa (by simpa [hclka] using hb) hma
  obtain ⟨c, hrc, hrun, hclkc, hevc, h0c, h1c, hxc⟩ := hrb.crystalSilent rfl (by simp [harbb]) hxb hmb
  have hev : c.events = s.events ++ (referenceEvents k ++ powerUpEvents) := by
    simp [hevc, hevb, heva]
  obtain ⟨hctl, -⟩ := hrc.replayed hev
  obtain ⟨hport, hother⟩ := hrc.raiseError_port (u := c.rsUpdate .XTAL_RDY_IE 0) (by simp) .xtalNotReady
  refine ⟨_, hrun, by simp [hev, CmdError.ecode, referenceEvents, powerUpEvents], ?_, ?_, ?_, ?_,
    by simp [hxc], by simp, by rw [hport]; simp; rfl, by rw [hother]; simp⟩
  · simp [hclkc, hclkb, hclka, hclkFree]
  · simp [hctl, replayCtl, Ctl.set, referenceEvents, powerUpEvents]
  · simp [h0c, h0b, h0a]
  · simp [h1c, h1b, h1a]

/-! ### `SWS` (rules R98, R101, R108) -/

/-- `SWS` to PLL from its start up to X1 (rules R98, R100). -/
theorem swsRun_toX1 {s : State} {p : Port} {rest : List Move}
    (hm : s.sched = .arb p :: .arb p :: .arb p :: .arb p :: rest) (hl : s.clk.lock = .free) (hs : s.arb.seq = .idle)
    (hp : (s.port p).pend = .arbWait) (hi : decode (s.port p).cmdLatch = .ok (.sws 1)) (hsrc : s.clk.clkSrc ≠ .pll) :
    ∃ t, ArbRun (.sws 1) p s 4 t ∧ t.sched = rest ∧ t.clk = { s.clk with lock := .held p } ∧
      t.arb.seq = .X1 ∧ t.arb.ret = .W1 ∧ t.arb.tgt = 1 ∧ t.events = s.events ∧ t.sel0 = s.sel0 ∧ t.sel1 = s.sel1 := by
  obtain ⟨t, ht, hm, hclk, harb, hev, h0, h1, -⟩ := arbRun_start hm (by simp [instrEngine]) hl hs hp hi
  have hcode : ¬ (1#2 = sourceCode s.clk.clkSrc) := by
    revert hsrc
    cases s.clk.clkSrc <;> decide
  have hW0 := ht.arb (by simp [State.arbMoves, State.move, hm])
    (by simp [State.arbReady, harb, firstLabel, arbWaitBefore]) (·.callSwitch 1 .W1)
    (by simp [arbListing, State.swsStep, harb, firstLabel]) (by simp)
  have hS0 := hW0.arb (by simp [State.arbMoves, State.move, hm]) (by simp [State.arbReady, arbWaitBefore])
    (·.arbGoto .S1) (by simp [arbListing, State.swsStep, State.switchStep, hclk, hcode]) (by simp)
  have hS1 := hS0.arb (by simp [State.arbMoves, State.move, hm]) (by simp [State.arbReady, arbWaitBefore])
    (·.arbGoto .X1) (by simp [arbListing, State.swsStep, State.switchStep]) (by simp)
  exact ⟨_, hS1, by simp [hm], by simp [hclk], by simp, by simp, by simp, by simp [hev], by simp [h0], by simp [h1]⟩

/-- Settles O59: up to X1, the crystal unused, the tail to PLL, W1. -/
theorem swsRunToPll : Obligations.SwsRunToPll := by
  intro s p hl hs hp hi hb hsrc
  obtain ⟨a, ha, hma, hclka, hseqa, hreta, htgta, heva, h0a, h1a⟩ := swsRun_toX1 (s := { s with
    sched := List.replicate 7 (Move.arb p) ++ [Move.time (duration .T_SRC_SETTLE)] ++ List.replicate 2 (Move.arb p) ++
      [Move.time (duration .T_SRC_SETTLE)] ++ List.replicate 2 (Move.arb p) }) rfl hl hs (by simpa) (by simpa) hsrc
  obtain ⟨b, hrb, hmb, hclkb, harbb, hevb, h0b, h1b⟩ := ha.crystalUnused rfl hseqa (by simp [hclka, hb]) hma
  obtain ⟨c, hrc, hmc, hclkc, hseqc, hevc, h0c, h1c⟩ := hrb.pllTail rfl (by simp [harbb, htgta]) hmb
  have hseqc : c.arb.seq = .W1 := by simp [hseqc, harbb, hreta, ReturnLabel.label]
  have hW1 := hrc.last (u := c.finish .arb p) (by simp [State.arbMoves, State.move, hmc])
    (by simp [State.arbReady, hseqc, arbWaitBefore]) (by simp [arbListing, State.swsStep, hseqc])
  have hev : c.events = s.events ++ ([Event.rsUpdate .XTAL_PDN 1] ++ pllEvents s.clk.refSel) := by
    simp [hevc, hevb, heva, hclkb, hclka]
  obtain ⟨hctl, -⟩ := hrc.replayed hev
  obtain ⟨hport, hother⟩ := hrc.finish_port fun _ => rfl
  refine ⟨_, hW1, by simp [hev, pllEvents], ?_, ?_, ?_, ?_, by simp, by simp [hrc.psq], by rw [hport]; simp,
    by rw [hother]; simp⟩
  · simp [hclkc, hclkb, hclka, hl]
  · simp [hctl, replayCtl, Ctl.set, pllEvents]
  · simp [h0c, h0b, h0a]
  · simp [h1c, h1b, h1a]

end Sys2Proof.Machine
end

section
/-! PROOFS. Family 41, divider lookup. First the three tables as arithmetic (`rateCode_eq`, `widthCode_eq`, and O19),
then one rule for each of the two commands: the checks in their order and what passing them all delivers
(`fmtResult_eq`, `divlResult_eq`). From these follow what the commands deliver or report (O20 to O22) and that a divider
delivered is exact (O23). -/

namespace Sys2Proof.Machine

/-! ### The tables (rules R121 to R125) -/

/-- A key that is not in a table is not found. -/
theorem find?_fst_eq_none {α : Type} {table : List (Nat × α)} {x : Nat} (h : x ∉ table.map (·.1)) :
    (table.find? fun row => row.1 == x).map (·.2) = none := by
  rw [Option.map_eq_none_iff, List.find?_eq_none]
  exact fun row hrow hx => h (List.mem_map.mpr ⟨row, hrow, beq_iff_eq.mp hx⟩)

/-- The rate code is the place of the rate in the list of rates (rule R121). -/
theorem rateCode_eq (r : Nat) : rateCode r = if r ∈ rates then some (BitVec.ofNat 4 (rates.idxOf r)) else none := by
  have listed : ∀ r ∈ rates, rateCode r = some (BitVec.ofNat 4 (rates.idxOf r)) := by decide
  split
  · exact listed r ‹_›
  · exact find?_fst_eq_none ‹_›

/-- The width code of a supported width (rule R122). -/
theorem widthCode_eq (w : Nat) :
    widthCode w = if w ∈ [8, 16, 24, 32] then some (BitVec.ofNat 2 (w / 8 - 1)) else none := by
  have listed : ∀ w ∈ [8, 16, 24, 32], widthCode w = some (BitVec.ofNat 2 (w / 8 - 1)) := by decide
  split
  · exact listed w ‹_›
  · exact find?_fst_eq_none ‹_›

/-- Reference, frame size and rate of the one ratio above 1 (rule R124). -/
abbrev RatioAboveOne (k : Bit) (fs r : Nat) : Prop := k = 0 ∧ fs = 64 ∧ r = 384000

/-- The fraction of rule R124, in lowest terms. -/
def divFraction (k : Bit) (fs r : Nat) : Nat × Nat :=
  (fs * r / Nat.gcd (fs * r) (refHz k), refHz k / Nat.gcd (fs * r) (refHz k))

/-- Every row of the divider table is one of rule R124 and holds its fraction. -/
theorem divTable_sound : ∀ k, ∀ row ∈ divTable k,
    (row.frame ∈ frameSizes ∧ row.rate ∈ rates ∧ ¬ RatioAboveOne k row.frame row.rate) ∧
      (row.num, row.den) = divFraction k row.frame row.rate := by
  decide

/-- The divider table has every row of rule R124. -/
theorem divTable_complete : ∀ k, ∀ fs ∈ frameSizes, ∀ r ∈ rates, ¬ RatioAboveOne k fs r →
    ∃ row ∈ divTable k, row.frame = fs ∧ row.rate = r := by
  decide

/-- The lookup of rule R125 by the rows rule R124 lists. -/
theorem divLookup_eq (k : Bit) (fs r : Nat) :
    divLookup k fs r =
      if fs ∈ frameSizes ∧ r ∈ rates ∧ ¬ RatioAboveOne k fs r then some (divFraction k fs r) else none := by
  rw [divLookup]
  cases hfind : (divTable k).find? fun row => row.frame == fs && row.rate == r with
  | some row =>
    have hkey := List.find?_some hfind
    rw [Bool.and_eq_true, beq_iff_eq, beq_iff_eq] at hkey
    obtain ⟨rfl, rfl⟩ := hkey
    obtain ⟨hlisted, hfrac⟩ := divTable_sound k row (List.mem_of_find?_eq_some hfind)
    rw [if_pos hlisted, ← hfrac, Option.map_some]
  | none =>
    rw [Option.map_none, if_neg]
    rintro ⟨hfs, hr, hratio⟩
    obtain ⟨row, hrow, rfl, rfl⟩ := divTable_complete k fs hfs r hr hratio
    exact List.find?_eq_none.mp hfind row hrow (by simp)

/-- Settles O19: a row found is one of the table (`divTable_sound`), and no row of the rule is missing
(`divTable_complete`). -/
theorem divLookupIsTheExactFraction : Obligations.DivLookupIsTheExactFraction := divLookup_eq

/-- The fractions of rule R124 are not above 1, and their terms fit the result registers. -/
theorem divFraction_bounds : ∀ k, ∀ fs ∈ frameSizes, ∀ r ∈ rates, ¬ RatioAboveOne k fs r →
    1 ≤ (divFraction k fs r).1 ∧ (divFraction k fs r).1 ≤ (divFraction k fs r).2 ∧ (divFraction k fs r).2 ≤ 5120 := by
  decide

/-- The frame-size and divider checks for a listed rate (rules R137, R140). -/
theorem findDivider_eq {k : Bit} {fs r : Nat} (hr : r ∈ rates) :
    findDivider k fs r =
      if fs ∉ frameSizes then .error .frameSize
      else if RatioAboveOne k fs r then .error .noDividerRow
      else .ok (divFraction k fs r) := by
  by_cases hfs : fs ∈ frameSizes
  · rw [findDivider, divLookup_eq, if_pos hfs, if_neg (not_not.mpr hfs)]
    by_cases hratio : RatioAboveOne k fs r
    · rw [if_pos hratio, if_neg fun h => h.2.2 hratio]
    · rw [if_neg hratio, if_pos ⟨hfs, hr, hratio⟩]
  · rw [findDivider, if_neg hfs, if_pos hfs]

/-! ### The fields of a result (rules R132, R135, R138, R139) -/

/-- The explicit bit clock 0 is the word 0 (rule R135). -/
theorem effectiveBclk_toNat (x : Word) (m : Bit) (r w c : Nat) :
    effectiveBclk x.toNat m r w c = if x = 0 ∧ m = 1 then r * w * c else x.toNat := by
  simp [effectiveBclk, ← BitVec.toNat_inj]

/-- A format code above 3 names no format (rule R132). -/
theorem frameFormat_eq_none {f : BitVec 3} (h : ¬ f.toNat ≤ 3) : frameFormat f = none := by
  revert f
  decide

/-- The frame timing of rule R138, by format code. -/
def frameTiming (f : BitVec 3) (bcw : Nat) : Nat × BitVec 2 × Bit :=
  (if f.toNat ≤ 1 then bcw else 1, if f = 3 then 0 else 2, if f = 0 then 0 else 1)

/-- A format code up to 3 names a format, with the timing of the code (rules R21, R138). -/
theorem frameFormat_eq_some {f : BitVec 3} (h : f.toNat ≤ 3) :
    ∃ F, frameFormat f = some F ∧ ∀ bcw, timing F bcw = frameTiming f bcw := by
  obtain rfl | rfl | rfl | rfl : f = 0 ∨ f = 1 ∨ f = 2 ∨ f = 3 := by revert f; decide
  all_goals exact ⟨_, rfl, fun _ => rfl⟩

/-- The DSD check of rule R139. -/
theorem dsdSpeed_eq (d : Bit) (r : Nat) :
    dsdSpeed d r =
      if d = 1 ∧ r ≠ 176400 ∧ r ≠ 352800 then .error .dsdRate else .ok (if d = 1 ∧ r = 352800 then 1 else 0) := by
  by_cases hd : d = 1
  · by_cases h1 : r = 176400
    · simp [dsdSpeed, hd, h1]
    · by_cases h2 : r = 352800 <;> simp [dsdSpeed, hd, h1, h2]
  · rw [dsdSpeed, if_neg hd, if_neg (hd ·.1), if_neg (hd ·.1)]

/-! ### The checks in their order (rules R129, R140) -/

/-- The bit clock of step F5. -/
def FmtOperands.effective (o : FmtOperands) : Nat := effectiveBclk o.bclk o.mstr o.rate o.width o.chans

/-- The bit-clock width of step F6. -/
def FmtOperands.bcw (o : FmtOperands) : Nat := bitClockWidth o.effective o.rate o.chans

/-- What a `FMT` that passes every check delivers (rule R130). -/
def FmtOperands.result (o : FmtOperands) : LookupResult :=
  { num := BitVec.ofNat 16 (divFraction o.ref (o.bcw * o.chans) o.rate).1
    den := BitVec.ofNat 16 (divFraction o.ref (o.bcw * o.chans) o.rate).2
    bclk := BitVec.ofNat 32 o.effective
    frm :=
      { frame := BitVec.ofNat 7 (o.bcw * o.chans)
        hitime := BitVec.ofNat 7 (frameTiming o.ffmt o.bcw).1
        delay := (frameTiming o.ffmt o.bcw).2.1
        phase := (frameTiming o.ffmt o.bcw).2.2
        rcode := BitVec.ofNat 4 (rates.idxOf o.rate)
        wcode := BitVec.ofNat 2 (o.width / 8 - 1)
        dsdSpeed := if o.dsd = 1 ∧ o.rate = 352800 then 1 else 0
        dsdSrc := if o.dsd = 1 then portBit o.port else 0
        dsd := o.dsd
        valid := true } }

/-- What a `DIVL` that passes every check delivers (rule R140). -/
def divlDelivers (k : Bit) (fs r : Nat) : LookupResult :=
  { num := BitVec.ofNat 16 (divFraction k fs r).1
    den := BitVec.ofNat 16 (divFraction k fs r).2
    bclk := 0
    frm := { FrameResult.zero with
      frame := BitVec.ofNat 7 fs, rcode := BitVec.ofNat 4 (rates.idxOf r), valid := true } }

/-- The checks F1 to F9 of a `FMT` in their order (rule R129). -/
theorem fmtResult_eq (o : FmtOperands) :
    fmtResult o =
      if o.width ∉ [8, 16, 24, 32] then .error .unsupWidth
      else if ¬ o.ffmt.toNat ≤ 3 then .error .unsupFfmt
      else if o.rate ∉ rates then .error .rateNotInTable
      else if o.chans = 0 then .error .frameSize
      else if o.effective = 0 then .error .clkNotCfg
      else if o.bcw < o.width then .error .insuffClk
      else if o.bcw * o.chans ∉ frameSizes then .error .frameSize
      else if RatioAboveOne o.ref (o.bcw * o.chans) o.rate then .error .noDividerRow
      else if o.dsd = 1 ∧ o.rate ≠ 176400 ∧ o.rate ≠ 352800 then .error .dsdRate
      else .ok o.result := by
  rw [fmtResult, widthCode_eq, rateCode_eq, dsdSpeed_eq]
  by_cases hw : o.width ∈ [8, 16, 24, 32]; swap
  · simp only [if_neg hw, if_pos hw]
  by_cases hf : o.ffmt.toNat ≤ 3; swap
  · simp only [if_pos hw, if_neg (not_not.mpr hw), frameFormat_eq_none hf, if_pos hf]
  obtain ⟨F, hF, htiming⟩ := frameFormat_eq_some hf
  have heff : effectiveBclk o.bclk o.mstr o.rate o.width o.chans = o.effective := rfl
  have hbcw : bitClockWidth o.effective o.rate o.chans = o.bcw := rfl
  simp only [if_pos hw, if_neg (not_not.mpr hw), hF, if_neg (not_not.mpr hf), htiming, heff, hbcw]
  by_cases hr : o.rate ∈ rates; swap
  · simp only [if_neg hr, if_pos hr]
  simp only [if_pos hr, if_neg (not_not.mpr hr), findDivider_eq hr]
  refine ite_congr rfl (fun _ => rfl) fun _ => ite_congr rfl (fun _ => rfl) fun _ =>
    ite_congr rfl (fun _ => rfl) fun _ => ?_
  by_cases hfs : o.bcw * o.chans ∉ frameSizes
  · simp only [if_pos hfs]
  by_cases hratio : RatioAboveOne o.ref (o.bcw * o.chans) o.rate
  · simp only [if_neg hfs, if_pos hratio]
  by_cases hdsd : o.dsd = 1 ∧ o.rate ≠ 176400 ∧ o.rate ≠ 352800
  · simp only [if_neg hfs, if_neg hratio, if_pos hdsd]
  · simp only [if_neg hfs, if_neg hratio, if_neg hdsd]
    rfl

/-- The checks V1 to V3 of a `DIVL` in their order (rule R140). -/
theorem divlResult_eq (b c r : Nat) (k : Bit) :
    divlResult b c r k =
      if r ∉ rates then .error .rateNotInTable
      else if b * c ∉ frameSizes then .error .frameSize
      else if RatioAboveOne k (b * c) r then .error .noDividerRow
      else .ok (divlDelivers k (b * c) r) := by
  rw [divlResult, rateCode_eq]
  by_cases hr : r ∈ rates
  · simp only [if_pos hr, if_neg (not_not.mpr hr), findDivider_eq hr]
    split_ifs <;> rfl
  · simp only [if_neg hr, if_pos hr]

/-! ### `FMT` and `DIVL` (rules R120, R129, R140) -/

/-- The one step of a `FMT`: its checks, and the end they call for (rules R120, R129). -/
theorem exec_fmt {s : State} {p : Port} (hm : s.move = .fu p) (W : BitVec 6) (C : BitVec 4) (D : Bit) :
    exec (.fmt W C D) s = .next (endLookup p s (fmtResult (fmtOperands W C D p s))).advance := by
  simp only [exec, execFmt, State.execPort_fu hm, answer_ok]

/-- The one step of a `DIVL` (rules R120, R140). -/
theorem exec_divl {s : State} {p : Port} (hm : s.move = .fu p) (B : BitVec 6) (C : BitVec 4) (X R : Bit) :
    exec (.divl B C X R) s = .next (endLookup p s
      (divlResult B.toNat C.toNat (s.rate p) (divlReference X R s.clk.refSel))).advance := by
  simp only [exec, execDivl, State.execPort_fu hm, answer_ok]

/-- The bit clock a `FMT` of port `p` uses (rule R135). -/
theorem fmtOperands_effective (W : BitVec 6) (C : BitVec 4) (D : Bit) (p : Port) (s : State) :
    (fmtOperands W C D p s).effective =
      if (s.port p).ifbclk = 0 ∧ (s.port p).mstr = 1 then (s.port p).rateLatch.toNat * W.toNat * C.toNat
      else (s.port p).ifbclk.toNat :=
  effectiveBclk_toNat _ _ _ _ _

/-- Settles O20: none of the checks F1 to F9 fails, so the end is the one with results. -/
theorem fmtDeliversTheResults : Obligations.FmtDeliversTheResults := by
  intro s p W C D hm q w c r k b bcw fs g hw hf hr hc hb hclk hfs hratio hdsd
  have heff : (fmtOperands W C D p s).effective = b := fmtOperands_effective W C D p s
  have hbcw : (fmtOperands W C D p s).bcw = bcw := by rw [FmtOperands.bcw, heff]; rfl
  have hok : fmtResult (fmtOperands W C D p s) = .ok (fmtOperands W C D p s).result := by
    have hcheck := fmtResult_eq (fmtOperands W C D p s)
    rw [heff, hbcw] at hcheck
    exact hcheck.trans <| (if_neg (not_not.mpr hw)).trans <| (if_neg (not_not.mpr hf)).trans <|
      (if_neg (not_not.mpr hr)).trans <| (if_neg hc).trans <| (if_neg hb).trans <|
      (if_neg (Nat.not_lt.mpr hclk)).trans <| (if_neg (not_not.mpr hfs)).trans <| (if_neg hratio).trans <|
      if_neg fun ⟨hD, h1, h2⟩ => (hdsd hD).elim h1 h2
  rw [exec_fmt hm, hok, endLookup_ok, FmtOperands.result, heff, hbcw]
  rfl

/-- Settles O21: one check of F1 to F9 after another, as in `fmtResult_eq`. -/
theorem fmtReportsTheFirstFailingCheck : Obligations.FmtReportsTheFirstFailingCheck := by
  intro s p W C D hm q w c r k b bcw fs okW okF okR okFs ends
  have heff : (fmtOperands W C D p s).effective = b := fmtOperands_effective W C D p s
  have hbcw : (fmtOperands W C D p s).bcw = bcw := by rw [FmtOperands.bcw, heff]; rfl
  have hends : ∀ e, fmtResult (fmtOperands W C D p s) = .error e → ends e := by
    intro e he
    simp only [ends, exec_fmt hm, he, endLookup_error]
    rfl
  have hcheck := fmtResult_eq (fmtOperands W C D p s)
  rw [heff, hbcw] at hcheck
  refine ⟨fun hW => ?_, fun hW hF => ?_, fun hW hF hR => ?_, fun hW hF hR hc => ?_, fun hW hF hR hc hb => ?_,
    fun hW hF hR hc hb hclk => ?_, fun hW hF hR hc hb hclk hfs => ?_, fun hW hF hR hc hb hclk hfs hratio => ?_,
    fun hW hF hR hc hb hclk hfs hratio hD h1 h2 => ?_⟩
  · exact hends _ (hcheck.trans (if_pos hW))
  all_goals replace hcheck := hcheck.trans (if_neg (not_not.mpr hW))
  · exact hends _ (hcheck.trans (if_pos hF))
  all_goals replace hcheck := hcheck.trans (if_neg (not_not.mpr hF))
  · exact hends _ (hcheck.trans (if_pos hR))
  all_goals replace hcheck := hcheck.trans (if_neg (not_not.mpr hR))
  · exact hends _ (hcheck.trans (if_pos hc))
  all_goals replace hcheck := hcheck.trans (if_neg hc)
  · exact hends _ (hcheck.trans (if_pos hb))
  all_goals replace hcheck := hcheck.trans (if_neg hb)
  · exact hends _ (hcheck.trans (if_pos hclk))
  all_goals replace hcheck := hcheck.trans (if_neg (Nat.not_lt.mpr hclk))
  · exact hends _ (hcheck.trans (if_pos hfs))
  all_goals replace hcheck := hcheck.trans (if_neg (not_not.mpr hfs))
  · exact hends _ (hcheck.trans (if_pos hratio))
  · exact hends _ ((hcheck.trans (if_neg hratio)).trans (if_pos ⟨hD, h1, h2⟩))

/-- Settles O22: one check of V1 to V3 after another, as in `divlResult_eq`. -/
theorem divlLooksUpOrReports : Obligations.DivlLooksUpOrReports := by
  intro s p B C X R hm q r fs k g okR okFs ends
  have hcheck := divlResult_eq B.toNat C.toNat (s.rate p) (divlReference X R s.clk.refSel)
  have hends : ∀ e, divlResult B.toNat C.toNat (s.rate p) (divlReference X R s.clk.refSel) = .error e → ends e := by
    intro e he
    simp only [ends, exec_divl hm, he, endLookup_error]
    rfl
  refine ⟨fun hr => hends _ (hcheck.trans (if_pos hr)), fun hr hfs => ?_, fun hr hfs hratio => ?_,
    fun hr hfs hratio => ?_⟩
  all_goals replace hcheck := hcheck.trans (if_neg (not_not.mpr hr))
  · exact hends _ (hcheck.trans (if_pos hfs))
  all_goals replace hcheck := hcheck.trans (if_neg (not_not.mpr hfs))
  · exact hends _ (hcheck.trans (if_pos hratio))
  · rw [exec_divl hm, hcheck.trans (if_neg hratio), endLookup_ok]
    rfl

/-! ### Exactness (rule R142) -/

/-- The fraction of rule R124 is exact and in lowest terms. -/
theorem divFraction_exact (k : Bit) (fs r : Nat) :
    (divFraction k fs r).1 * refHz k = (divFraction k fs r).2 * fs * r ∧
      Nat.gcd (divFraction k fs r).1 (divFraction k fs r).2 = 1 := by
  have href : 0 < refHz k := by revert k; decide
  constructor
  · calc fs * r / Nat.gcd (fs * r) (refHz k) * refHz k
      _ = fs * r * (refHz k / Nat.gcd (fs * r) (refHz k)) := by
        rw [Nat.div_mul_right_comm (Nat.gcd_dvd_left _ _), Nat.mul_div_assoc _ (Nat.gcd_dvd_right _ _)]
      _ = refHz k / Nat.gcd (fs * r) (refHz k) * fs * r := by ring
  · exact Nat.coprime_div_gcd_div_gcd (Nat.gcd_pos_of_pos_right _ href)

/-- Rule R142 of a result for reference `k` and rate `r`. -/
def LookupResult.Exact (l : LookupResult) (k : Bit) (r : Nat) : Prop :=
  l.num.toNat * refHz k = l.den.toNat * l.frm.frame.toNat * r ∧ Nat.gcd l.num.toNat l.den.toNat = 1 ∧
    1 ≤ l.num.toNat ∧ l.num.toNat ≤ l.den.toNat ∧ l.den.toNat ≤ 5120

/-- The fraction of a row keeps its value in the result registers, so the result is exact. -/
theorem LookupResult.exact_of_divFraction {l : LookupResult} {k : Bit} {fs r : Nat} (hfs : fs ∈ frameSizes)
    (hr : r ∈ rates) (hratio : ¬ RatioAboveOne k fs r) (hnum : l.num = BitVec.ofNat 16 (divFraction k fs r).1)
    (hden : l.den = BitVec.ofNat 16 (divFraction k fs r).2) (hframe : l.frm.frame = BitVec.ofNat 7 fs) :
    l.Exact k r := by
  obtain ⟨hpos, hle, hbound⟩ := divFraction_bounds k fs hfs r hr hratio
  obtain ⟨hexact, hgcd⟩ := divFraction_exact k fs r
  have hfs : fs < 2 ^ 7 := (by decide : ∀ fs ∈ frameSizes, fs < 2 ^ 7) fs hfs
  have hnum : l.num.toNat = (divFraction k fs r).1 := by rw [hnum, BitVec.toNat_ofNat, Nat.mod_eq_of_lt (by omega)]
  have hden : l.den.toNat = (divFraction k fs r).2 := by rw [hden, BitVec.toNat_ofNat, Nat.mod_eq_of_lt (by omega)]
  have hframe : l.frm.frame.toNat = fs := by rw [hframe, BitVec.toNat_ofNat, Nat.mod_eq_of_lt hfs]
  rw [LookupResult.Exact, hnum, hden, hframe]
  exact ⟨hexact, hgcd, hpos, hle, hbound⟩

/-- Only a listed frame size and rate pass the checks of a `FMT`. -/
theorem fmtResult_exact {o : FmtOperands} {l : LookupResult} (h : fmtResult o = .ok l) : l.Exact o.ref o.rate := by
  rw [fmtResult_eq] at h
  split_ifs at h with hw hf hr hc hb hclk hfs hratio hdsd
  cases h
  exact LookupResult.exact_of_divFraction hfs hr hratio rfl rfl rfl

/-- Only a listed frame size and rate pass the checks of a `DIVL`. -/
theorem divlResult_exact {b c r : Nat} {k : Bit} {l : LookupResult} (h : divlResult b c r k = .ok l) : l.Exact k r := by
  rw [divlResult_eq] at h
  split_ifs at h with hr hfs hratio
  cases h
  exact LookupResult.exact_of_divFraction hfs hr hratio rfl rfl rfl

/-- `VALID` = 1 after the end of a `FMT` or `DIVL` means that the results are those of a success. -/
theorem endLookup_valid {s : State} {p : Port} {res : Except CmdError LookupResult}
    (h : ((endLookup p s res).advance.port p).frm.valid = true) :
    ∃ l, res = .ok l ∧ ((endLookup p s res).advance.port p).num = l.num ∧
      ((endLookup p s res).advance.port p).den = l.den ∧ ((endLookup p s res).advance.port p).frm = l.frm := by
  cases res with
  | ok l => exact ⟨l, rfl, by simp [endLookup_ok], by simp [endLookup_ok], by simp [endLookup_ok]⟩
  | error e => simp [endLookup_error, FrameResult.zero] at h

/-- Settles O23: with `VALID` = 1 the registers hold the results of a success, and those are exact. -/
theorem lookupResultsAreExact : Obligations.LookupResultsAreExact := by
  intro s t p i k hm hi ht hvalid
  obtain ⟨res, hexec, hexact⟩ : ∃ res, exec i s = .next (endLookup p s res).advance ∧
      ∀ l, res = .ok l → l.Exact k (s.port p).rateLatch.toNat := by
    obtain ⟨W, C, D, rfl, rfl⟩ | ⟨B, C, X, R, rfl, rfl⟩ := hi
    · exact ⟨_, exec_fmt hm W C D, fun l hl => fmtResult_exact hl⟩
    · exact ⟨_, exec_divl hm B C X R, fun l hl => divlResult_exact hl⟩
  cases hexec.symm.trans ht
  obtain ⟨l, hl, hnum, hden, hfrm⟩ := endLookup_valid hvalid
  intro q
  have hq : l.Exact k (s.port p).rateLatch.toNat := hexact l hl
  rwa [LookupResult.Exact, ← hnum, ← hden, ← hfrm] at hq

end Sys2Proof.Machine
end

section
/-! PROOFS. Family 42, power sequencer. `SequenceStep` is a step of the sequence a command runs, with what such a step
does to the rest of the machine; from it come the single steps of the power-down (O35) and of the power-up (O36). Then a
whole `PDN` and a whole `PUP` run alone (O60): `SequenceRun` says what such a run keeps, with one rule for each kind of
move. -/

namespace Sys2Proof.Machine

/-! ### The steps of a sequence (rules R151, R153, R156, R180) -/

/-- A step is taken inside a sequence. -/
theorem DownStep.seq_ne_idle {s u : State} (h : DownStep s u) : s.psq.seq ≠ .idle := by cases h <;> simp [*]

theorem UpStep.seq_ne_idle {s u : State} (h : UpStep s u) : s.psq.seq ≠ .idle := by cases h <;> simp [*]

/-- `SequenceStep s i u`: the next step of the sequence that command `i` runs makes `u` of `s`, before the move is
counted. `REL` runs the power-down (rule R54). -/
inductive SequenceStep (s : State) : Instr → State → Prop where
  | pdn {u : State} (h : DownStep s u) : SequenceStep s .pdn u
  | rel {u : State} (h : DownStep s u) : SequenceStep s .rel u
  | pup {u : State} (h : UpStep s u) : SequenceStep s .pup u

/-- At the sequencer's turn, outside a settle wait, `exec` takes the step of the sequence. -/
theorem SequenceStep.exec_eq {i : Instr} {s u : State} (h : SequenceStep s i u) (hm : s.psqMoves = true)
    (hw : ∀ w, psqWaitBefore s.psq.seq = some w → duration w ≤ s.now - s.psq.wt) : exec i s = .next u.advance := by
  have hr : s.psqReady = true := State.psqReady_of_waits hw
  cases h with
  | pdn h => exact (psqCommand_step hr h.seq_ne_idle).trans (by rw [h.listing, answer_ok])
  | rel h => exact (execRel_psq hm).trans ((psqCommand_step hr h.seq_ne_idle).trans (by rw [h.listing, answer_ok]))
  | pup h => exact (psqCommand_step hr h.seq_ne_idle).trans (by rw [h.listing, answer_ok])

/-- The same at a label: no settle wait precedes it, or that wait is over. -/
theorem exec_sequence_eq {i : Instr} {s u : State} {o : PsqOwner} {l : PsqLabel}
    (hw : ∀ w, psqWaitBefore l = some w → duration w ≤ s.now - s.psq.wt)
    (hu : s.psq.owner = o → s.psq.seq = l → SequenceStep s i u) (h : s.PsqTurn o l) : exec i s = .next u.advance := by
  obtain ⟨hm, ho, rfl⟩ := h
  exact (hu ho rfl).exec_eq hm hw

/-- Settles O35: each label's line of the listing, D6 by the owner; D5 follows the settle wait. -/
theorem powerDownSteps : Obligations.PowerDownSteps := by
  intro i s o hi
  have hdown : ∀ {u}, DownStep s u → SequenceStep s i u := fun h => by
    obtain ⟨rfl, -⟩ | ⟨rfl, -⟩ := hi
    · exact .pdn h
    · exact .rel h
  refine ⟨?_, ?_, ?_, ?_, ?_, ?_, ?_⟩
  · exact exec_sequence_eq (by simp [psqWaitBefore]) fun _ hl => hdown (.D1 hl)
  · exact exec_sequence_eq (by simp [psqWaitBefore]) fun _ hl => hdown (.D2 hl)
  · exact exec_sequence_eq (by simp [psqWaitBefore]) fun _ hl => hdown (.D3 hl)
  · exact exec_sequence_eq (by simp [psqWaitBefore]) fun _ hl => hdown (.D4 hl)
  · exact fun h hw => exec_sequence_eq (by rintro w ⟨⟩; exact hw) (fun _ hl => hdown (.D5 hl)) h
  · rintro p rfl
    exact exec_sequence_eq (by simp [psqWaitBefore]) fun ho hl => hdown (.D6 hl (.port ho))
  · rintro rfl
    exact exec_sequence_eq (by simp [psqWaitBefore]) fun ho hl => hdown (.D6 hl (.arb ho))

/-- Settles O36: each label's line of the listing; U5 follows the settle wait. -/
theorem powerUpSteps : Obligations.PowerUpSteps := by
  refine fun s p => ⟨?_, ?_, ?_, ?_, ?_⟩
  · exact exec_sequence_eq (by simp [psqWaitBefore]) fun _ hl => .pup (.U1 hl)
  · exact exec_sequence_eq (by simp [psqWaitBefore]) fun _ hl => .pup (.U2 hl)
  · exact exec_sequence_eq (by simp [psqWaitBefore]) fun _ hl => .pup (.U3 hl)
  · exact exec_sequence_eq (by simp [psqWaitBefore]) fun _ hl => .pup (.U4 hl)
  · exact fun h hw => exec_sequence_eq (by rintro w ⟨⟩; exact hw) (fun ho hl => .pup (.U5 hl (.port ho))) h

/-! ### What a step of a sequence leaves alone (rules R80, R82, R151) -/

/-- No step of a sequence touches the arbiter's side. -/
theorem SequenceStep.arbSide {i : Instr} {s u : State} (h : SequenceStep s i u) : ArbSideKept s u := by
  cases h with
  | pdn h | rel h | pup h => exact h.arbSide

/-- A step of a sequence does to control fields and store what its events say. -/
theorem SequenceStep.follows {i : Instr} {s u : State} (h : SequenceStep s i u) : Follows s u := by
  cases h with
  | pdn h | rel h => exact State.powerDownStep_follows h.listing
  | pup h => exact State.powerUpStep_follows h.listing

/-- A sequence run for a port ends by `done` for it (rule R171). -/
theorem PsqEnded.port_done {s u : State} {p : Port} (h : PsqEnded s u) (ho : s.psq.owner = .port p) :
    u.psq.seq = .idle ∧ u.psq.owner = .none ∧
      u.port p = { s.port p with status := (s.port p).status.ended, pend := .none } ∧
      u.port (otherPort p) = s.port (otherPort p) := by
  cases h with
  | port hp =>
    obtain rfl : p = _ := PsqOwner.port.inj (ho.symm.trans hp)
    have hidle : ∀ r, State.port { s with psq := { s.psq with seq := .idle, owner := .none } } r = s.port r :=
      fun r => by cases r <;> rfl
    simp [hidle]
  | arb hp => simp [ho] at hp

/-- A step that goes on leaves owner and ports alone; the last one is `done` for a port that owns the sequence. -/
theorem SequenceStep.owner_cases {i : Instr} {s u : State} {p : Port} (h : SequenceStep s i u)
    (ho : s.psq.owner = .port p) :
    (u.psq.seq ≠ .idle ∧ u.psq.owner = .port p ∧ ∀ r, u.port r = s.port r) ∨
      (u.psq.seq = .idle ∧ u.psq.owner = .none ∧
        u.port p = { s.port p with status := (s.port p).status.ended, pend := .none } ∧
        u.port (otherPort p) = s.port (otherPort p)) := by
  cases h with
  | pdn h | rel h =>
    cases h
    case D6 hl hu => exact .inr (by simpa using hu.port_done ho)
    all_goals exact .inl (by simp [ho])
  | pup h =>
    cases h
    case U5 hl hu => exact .inr (by simpa using hu.port_done ho)
    all_goals exact .inl (by simp [ho])

/-! ### The moves of a sequence run alone (rules R151, R179, R180) -/

/-- `n` steps lead from `s`, where command `i` of port `p` waits for the sequencer, to `t`, and its sequence still runs:
the port owns the sequencer, and of ports, clock state and arbiter nothing else has changed. -/
structure SequenceRun (i : Instr) (p : Port) (s : State) (n : Nat) (t : State) : Prop where
  run : ∀ k, runFor (k + n) s = runFor k t
  latched : decode (s.port p).cmdLatch = .ok i
  owner : t.psq.owner = .port p
  port : t.port p = { s.port p with pend := .psqRun }
  other : t.port (otherPort p) = s.port (otherPort p)
  clk : t.clk = s.clk
  arb : t.arb = s.arb
  follows : Follows s t

/-- `n` steps lead from `s` to `t` and end the command of port `p`: the sequencer is idle again, and of ports, clock
state and arbiter nothing else has changed. -/
structure SequenceDone (p : Port) (s : State) (n : Nat) (t : State) : Prop where
  run : runFor n s = .next t
  seq : t.psq.seq = .idle
  owner : t.psq.owner = .none
  port : t.port p = { s.port p with status := (s.port p).status.ended, pend := .none }
  other : t.port (otherPort p) = s.port (otherPort p)
  clk : t.clk = s.clk
  arb : t.arb = s.arb
  follows : Follows s t

/-- The control fields are what the events make of them (rules R43, R50). -/
theorem Follows.ctl_eq {s t : State} (h : Follows s t) {es : List Event} (he : t.events = s.events ++ es) :
    t.ctl = replayCtl s.ctl es := by
  obtain ⟨fs, hfs, hctl, -⟩ := h
  obtain rfl := List.append_cancel_left (he.symm.trans hfs)
  exact hctl

/-- The first move takes the sequencer and does nothing else (rule R151). -/
theorem sequenceRun_start {i : Instr} {l : PsqLabel} {p : Port} {s : State} {rest : List Move}
    (hil : (i = .pdn ∧ l = .D1) ∨ (i = .pup ∧ l = .U1)) (hm : s.sched = .psq (.port p) :: rest) (hs : s.psq.seq = .idle)
    (ho : s.psq.owner = .none) (hp : (s.port p).pend = .psqWait) (hi : decode (s.port p).cmdLatch = .ok i) :
    ∃ t, SequenceRun i p s 1 t ∧ t.sched = rest ∧ t.psq = { s.psq with seq := l, owner := .port p } ∧
      t.events = s.events ∧ t.now = s.now := by
  have hmove : s.move = .psq (.port p) := by simp [State.move, hm]
  have hstep : step s = .next (s.psqStart (.port p) l).advance := by
    obtain ⟨hpdn, hpup⟩ := (sequencerStart s hs).1 p hmove ho hp
    rw [step_eq_exec hi (engineTurn_psq_free hmove ho hs hp) (State.execPort_psq_free hmove ho)]
    obtain ⟨rfl, rfl⟩ | ⟨rfl, rfl⟩ := hil
    · exact hpdn.trans (by simp [State.psqStart])
    · exact hpup.trans (by simp [State.psqStart])
  obtain ⟨hclk, harb, -, -, -, hnow, -, hevents, hpsq⟩ := s.psqStart_kept (.port p) l
  have hport : ∀ r, (s.psqStart (.port p) l).port r = (s.setPort p { s.port p with pend := .psqRun }).port r :=
    fun r => by cases r <;> rfl
  refine ⟨_, ⟨fun k => runFor_succ hstep, hi, ?_, ?_, ?_, hclk, harb, (follows_psqStart s _ l).advance⟩, ?_, hpsq,
    hevents, hnow⟩
  · simp [hpsq]
  · simp [hport]
  · simp [hport]
  · simp [State.psqStart, hm]

section
variable {i : Instr} {p : Port} {s t u : State} {n : Nat} (h : SequenceRun i p s n t)
include h

/-- A move that leaves ownership, ports, clock state and arbiter alone goes on with the run. -/
theorem SequenceRun.step (hstep : Machine.step t = .next u.advance) (ho : u.psq.owner = t.psq.owner)
    (hport : ∀ r, u.port r = t.port r) (hclk : u.clk = t.clk) (harb : u.arb = t.arb) (hf : Follows t u) :
    SequenceRun i p s (n + 1) u.advance where
  run k := by rw [← Nat.add_assoc, Nat.add_right_comm, h.run, runFor_succ hstep]
  latched := h.latched
  owner := ho.trans h.owner
  port := by rw [State.advance_port, hport, h.port]
  other := by rw [State.advance_port, hport, h.other]
  clk := hclk.trans h.clk
  arb := harb.trans h.arb
  follows := (h.follows.trans hf).advance

/-- The step of the sequencer, outside a settle wait. -/
theorem SequenceRun.step_eq (hm : t.psqMoves = true)
    (hw : ∀ w, psqWaitBefore t.psq.seq = some w → duration w ≤ t.now - t.psq.wt) (hu : SequenceStep t i u) :
    Machine.step t = .next u.advance := by
  have hi : decode (t.port p).cmdLatch = .ok i := by rw [h.port]; exact h.latched
  rw [step_eq_exec hi (engineTurn_psq hm h.owner) (State.execPort_psq hm h.owner), hu.exec_eq hm hw]

/-- The sequencer takes a step that does not end the sequence. -/
theorem SequenceRun.next (hm : t.psqMoves = true)
    (hw : ∀ w, psqWaitBefore t.psq.seq = some w → duration w ≤ t.now - t.psq.wt) (hu : SequenceStep t i u)
    (hgo : u.psq.seq ≠ .idle) : SequenceRun i p s (n + 1) u.advance := by
  obtain ⟨-, ho, hport⟩ | ⟨hidle, -⟩ := hu.owner_cases h.owner
  · exact h.step (h.step_eq hm hw hu) (ho.trans h.owner.symm) hport hu.arbSide.clk hu.arbSide.arb hu.follows
  · exact absurd hidle hgo

/-- The last step of the sequence ends the command. -/
theorem SequenceRun.last (hm : t.psqMoves = true)
    (hw : ∀ w, psqWaitBefore t.psq.seq = some w → duration w ≤ t.now - t.psq.wt) (hu : SequenceStep t i u)
    (hend : u.psq.seq = .idle) : SequenceDone p s (n + 1) u.advance := by
  obtain ⟨hgo, -⟩ | ⟨-, ho, hport, hother⟩ := hu.owner_cases h.owner
  · exact absurd hend hgo
  refine ⟨?_, hend, ho, ?_, ?_, hu.arbSide.clk.trans h.clk, hu.arbSide.arb.trans h.arb,
    (h.follows.trans hu.follows).advance⟩
  · rw [Nat.add_comm, h.run, runFor_succ (h.step_eq hm hw hu), runFor]
  · simp [hport, h.port]
  · simp [hother, h.other]

/-- The settle wait just begun passes, where the crystal-ready wait leaves room for it (rules R179, R180). -/
theorem SequenceRun.settle {w : WaitName} (hm : t.move = .time (duration w))
    (hwt : t.psq.wt = t.now) (hroom : s.arb.seq = .X4 → t.now + duration w ≤ s.arb.wt + xtalTimeout) :
    ∃ u, SequenceRun i p s (n + 1) u ∧ u.sched = t.sched.tail ∧ u.psq = t.psq ∧ u.events = t.events ∧
      duration w ≤ u.now - u.psq.wt := by
  have hpass : t.timeStep (duration w) = duration w := by
    unfold State.timeStep
    split
    case isTrue hX =>
      rw [h.arb] at hX ⊢
      have hfits := hroom hX
      omega
    case isFalse => rfl
  refine ⟨(t.passTime (duration w)).advance, h.step (by simp [Machine.step, hm]) rfl (by simp) rfl rfl
    ((Follows.refl t).quiet rfl rfl rfl), rfl, rfl, rfl, ?_⟩
  simp [hpass, hwt]

end

/-! ### `PDN` and `PUP` (rules R152, R153, R155, R156) -/

/-- What the power-up sequence reports (rule R156). -/
def sequenceUpEvents : List Event :=
  [.rsUpdate .ASP_3ST 0, .rsUpdate .SCRATCH_A Config.kA, .rsUpdate .SCRATCH_B Config.kB, .rsUpdate .PDN_PATH 0,
    .rsUpdate .PDN_OUT 0, .wait .T_DAC_STARTUP, .rsUpdate .SCRATCH_A 0, .rsUpdate .SCRATCH_B 0]

/-- A whole `PDN`: the start, D1 to D4, the settle wait, D5 and D6. -/
theorem pdnRun {s : State} {p : Port} {rest : List Move}
    (hm : s.sched = .psq (.port p) :: .psq (.port p) :: .psq (.port p) :: .psq (.port p) :: .psq (.port p) ::
      .time (duration .T_PDN_SETTLE) :: .psq (.port p) :: .psq (.port p) :: rest)
    (hs : s.psq.seq = .idle) (ho : s.psq.owner = .none) (hp : (s.port p).pend = .psqWait)
    (hi : decode (s.port p).cmdLatch = .ok .pdn)
    (hroom : s.arb.seq = .X4 → s.now + duration .T_PDN_SETTLE ≤ s.arb.wt + xtalTimeout) :
    ∃ t, SequenceDone p s 8 t ∧ t.events = s.events ++ (powerDownEvents ++ [Event.complete p 0]) := by
  obtain ⟨a, ha, hma, hpsqa, heva, hnowa⟩ := sequenceRun_start (.inl ⟨rfl, rfl⟩) hm hs ho hp hi
  have hD1 := ha.next (by simp [State.psqMoves, State.move, hma]) (by simp [hpsqa, psqWaitBefore])
    (.pdn (.D1 (by simp [hpsqa]))) (by simp)
  have hD2 := hD1.next (by simp [State.psqMoves, State.move, hma]) (by simp [psqWaitBefore])
    (.pdn (.D2 (by simp))) (by simp)
  have hD3 := hD2.next (by simp [State.psqMoves, State.move, hma]) (by simp [psqWaitBefore])
    (.pdn (.D3 (by simp))) (by simp)
  have hD4 := hD3.next (by simp [State.psqMoves, State.move, hma]) (by simp [psqWaitBefore])
    (.pdn (.D4 (by simp))) (by simp)
  obtain ⟨b, hb, hmb, hpsqb, hevb, hover⟩ := hD4.settle (w := .T_PDN_SETTLE) (by simp [State.move, hma]) (by simp)
    (by simpa [hnowa] using hroom)
  have hD5 := hb.next (by simp [State.psqMoves, State.move, hmb, hma]) (by simpa [hpsqb, psqWaitBefore] using hover)
    (.pdn (.D5 (by simp [hpsqb]))) (by simp)
  have hD6 := hD5.last (by simp [State.psqMoves, State.move, hmb, hma]) (by simp [psqWaitBefore])
    (.pdn (.D6 (by simp) (.port (by simpa using hb.owner)))) (by simp)
  exact ⟨_, hD6, by simp [hevb, heva, powerDownEvents]⟩

/-- A whole `PUP`: the start, U1 to U4, the settle wait, U5. -/
theorem pupRun {s : State} {p : Port} {rest : List Move}
    (hm : s.sched = .psq (.port p) :: .psq (.port p) :: .psq (.port p) :: .psq (.port p) :: .psq (.port p) ::
      .time (duration .T_DAC_STARTUP) :: .psq (.port p) :: rest)
    (hs : s.psq.seq = .idle) (ho : s.psq.owner = .none) (hp : (s.port p).pend = .psqWait)
    (hi : decode (s.port p).cmdLatch = .ok .pup)
    (hroom : s.arb.seq = .X4 → s.now + duration .T_DAC_STARTUP ≤ s.arb.wt + xtalTimeout) :
    ∃ t, SequenceDone p s 7 t ∧ t.events = s.events ++ (sequenceUpEvents ++ [Event.complete p 0]) := by
  obtain ⟨a, ha, hma, hpsqa, heva, hnowa⟩ := sequenceRun_start (.inr ⟨rfl, rfl⟩) hm hs ho hp hi
  have hU1 := ha.next (by simp [State.psqMoves, State.move, hma]) (by simp [hpsqa, psqWaitBefore])
    (.pup (.U1 (by simp [hpsqa]))) (by simp)
  have hU2 := hU1.next (by simp [State.psqMoves, State.move, hma]) (by simp [psqWaitBefore])
    (.pup (.U2 (by simp))) (by simp)
  have hU3 := hU2.next (by simp [State.psqMoves, State.move, hma]) (by simp [psqWaitBefore])
    (.pup (.U3 (by simp))) (by simp)
  have hU4 := hU3.next (by simp [State.psqMoves, State.move, hma]) (by simp [psqWaitBefore])
    (.pup (.U4 (by simp))) (by simp)
  obtain ⟨b, hb, hmb, hpsqb, hevb, hover⟩ := hU4.settle (w := .T_DAC_STARTUP) (by simp [State.move, hma]) (by simp)
    (by simpa [hnowa] using hroom)
  have hU5 := hb.last (by simp [State.psqMoves, State.move, hmb, hma]) (by simpa [hpsqb, psqWaitBefore] using hover)
    (.pup (.U5 (by simp [hpsqb]) (.port (by simpa using hb.owner)))) (by simp)
  exact ⟨_, hU5, by simp [hevb, heva, sequenceUpEvents]⟩

/-- Settles O60: the two runs; the control fields are read off their events. -/
theorem sequencerRuns : Obligations.SequencerRuns := by
  refine fun s p hs ho hp => ⟨fun hi hroom => ?_, fun hi hroom => ?_⟩
  · obtain ⟨t, ht, hev⟩ := pdnRun (p := p) (s := { s with
      sched := List.replicate 5 (Move.psq (.port p)) ++ [Move.time (duration .T_PDN_SETTLE)] ++
        List.replicate 2 (Move.psq (.port p)) }) rfl hs ho (by simpa) (by simpa) hroom
    refine ⟨t, ht.run, by simpa [powerDownEvents] using hev, ?_, ht.clk, ht.arb, ht.seq, ht.owner,
      ht.port.trans (by simp [Status.ended]), ht.other.trans (by simp)⟩
    simp [ht.follows.ctl_eq hev, replayCtl, Ctl.set, powerDownEvents]
  · obtain ⟨t, ht, hev⟩ := pupRun (p := p) (s := { s with
      sched := List.replicate 5 (Move.psq (.port p)) ++ [Move.time (duration .T_DAC_STARTUP)] ++
        [Move.psq (.port p)] }) rfl hs ho (by simpa) (by simpa) hroom
    refine ⟨t, ht.run, by simpa [sequenceUpEvents] using hev, ?_, ht.clk, ht.arb, ht.seq, ht.owner,
      ht.port.trans (by simp [Status.ended]), ht.other.trans (by simp)⟩
    simp [ht.follows.ctl_eq hev, replayCtl, Ctl.set, sequenceUpEvents]

end Sys2Proof.Machine
end

section
/-! PROOFS. Family 60, exceptions: the two inputs that no engine asks for, `rst` (O11) and the crystal-ready event
(O38). For each, what its move is and what the input does to the state. -/

namespace Sys2Proof.Machine

/-! ### The input `rst` (rules R190 to R192) -/

/-- The move of `rst` is the reset of the block. -/
theorem step_rst {s : State} (hm : s.move = .rst) : step s = .next s.applyReset.advance := by
  simp [step, hm]

@[simp] theorem State.applyReset_p0 (s : State) : s.applyReset.p0 = PortState.reset := rfl
@[simp] theorem State.applyReset_p1 (s : State) : s.applyReset.p1 = PortState.reset := rfl
@[simp] theorem State.applyReset_clk (s : State) : s.applyReset.clk = ClockState.reset := rfl
@[simp] theorem State.applyReset_arb (s : State) : s.applyReset.arb = ArbState.reset := rfl
@[simp] theorem State.applyReset_psq (s : State) : s.applyReset.psq = PsqState.reset := rfl
@[simp] theorem State.applyReset_ctl (s : State) : s.applyReset.ctl = Ctl.reset := rfl
@[simp] theorem State.applyReset_sel0 (s : State) : s.applyReset.sel0 = false := rfl
@[simp] theorem State.applyReset_sel1 (s : State) : s.applyReset.sel1 = false := rfl
@[simp] theorem State.applyReset_xtalRdyLatch (s : State) : s.applyReset.xtalRdyLatch = false := rfl
@[simp] theorem State.applyReset_events (s : State) : s.applyReset.events = [] := rfl
@[simp] theorem State.applyReset_store (s : State) : s.applyReset.store = s.store := rfl
@[simp] theorem State.applyReset_now (s : State) : s.applyReset.now = s.now := rfl

/-- Settles O11: the reset of the block, field by field; counting the move touches none of the fields named. -/
theorem resetInputRestoresReset : Obligations.ResetInputRestoresReset :=
  fun _ hm => ⟨_, step_rst hm, by simp⟩

/-! ### The crystal-ready event (rules R175, R176) -/

/-- The move of the crystal is the crystal-ready event, where there is one. -/
theorem step_xtal {s : State} (hm : s.move = .xtal) : step s = .next s.xtalReady.advance := by
  simp [step, hm]

/-- A powered crystal sets the latch and reports it; the interrupt enable is not read. -/
theorem State.xtalReady_powered {s : State} (hx : s.ctl.xtalPdn = 0) :
    s.xtalReady = { s with xtalRdyLatch := true, events := s.events ++ [.xtalRdy] } := if_pos hx

/-- A crystal that is powered down signals nothing. -/
theorem State.xtalReady_poweredDown {s : State} (hx : s.ctl.xtalPdn ≠ 0) : s.xtalReady = s := if_neg hx

/-- Settles O38: the two cases of `XTAL_PDN`. -/
theorem crystalReadySetsTheLatch : Obligations.CrystalReadySetsTheLatch := by
  refine fun s hm => ⟨fun hpowered => ?_, fun hdown => ?_⟩
  · rw [step_xtal hm, State.xtalReady_powered hpowered]
  · rw [step_xtal hm, State.xtalReady_poweredDown hdown]

end Sys2Proof.Machine
end

section
/-! PROOFS. Family 70, reset and hazards: the base case of every invariant (O44). After reset both engines are idle, so
nothing is asked at the labels of a listing; what is left is the state at rest, no request held, the ring oscillator
selected, the path down and the interrupt not armed. -/

namespace Sys2Proof.Machine

/-- The arbiter after reset is outside the switch. -/
theorem targetInv_reset : TargetInv State.reset := targetInv_of_outside (show ArbLabel.idle ∉ switchLabels by decide)

/-- At `IDLE` nothing is asked of the count. -/
theorem countInv_reset : CountInv State.reset := countInv_of_fits trivial

/-- After reset no port has a command in flight, so none has an `SWS`. -/
theorem noSwsInFlight_reset : NoSwsInFlight State.reset := by
  intro p
  cases p <;> rfl

/-- No request is held and the source is the ring oscillator (rules R28, R191). -/
theorem clockInv_reset : ClockInv State.reset :=
  clockInv_of_agree noSwsInFlight_reset (List.mem_cons_self : ArbLabel.idle ∈ _) (iff_of_true rfl rfl)

/-- The path is down, and no sequence is in progress (rules R28, R191). -/
theorem pathInv_reset : PathInv State.reset where
  down _ := State.pathDown_iff.mpr ⟨rfl, rfl⟩
  out := nofun
  path := nofun
  held := nofun
  zeroing := nofun

/-- Neither select is asserted, and the interrupt is not armed at `IDLE` (rules R24, R175). -/
theorem outputInv_reset : OutputInv State.reset := ⟨by decide, by decide⟩

/-- Both waits began at time 0, which is now (logs 1 and 2), and no wait for the crystal is in progress. -/
theorem timeInv_reset : TimeInv State.reset := ⟨le_rfl, le_rfl, nofun⟩

/-- Settles O44: each invariant by its own lemma. -/
theorem resetMeetsTheInvariants : Obligations.ResetMeetsTheInvariants :=
  ⟨seqInv_reset, targetInv_reset, countInv_reset, clockInv_reset, pathInv_reset, outputInv_reset, timeInv_reset,
    State.reset_store_wf⟩

end Sys2Proof.Machine
end
